-- ==== Sys2Proof/Word.lean ====
section
/-! DEFINITION. The word types of the block: command words, register words, register addresses, and the bytes of a carried word. -/

namespace Sys2Proof

/-- One byte of a word carried as a byte sequence (20_memory.md R82). -/
abbrev Byte := BitVec 8

/-- A command word or a response word: 64 bits (30_encoding.md R100, R101, R110). -/
abbrev CmdWord := BitVec 64

/-- A register word: 32 bits (10_state.md R37). -/
abbrev RegWord := BitVec 32

/-- A register word address: 8 bits (20_memory.md R81). -/
abbrev RegAddr := BitVec 8

/-- A history cell: 32-bit two's complement (42_fir_filter.md R170). -/
abbrev Sample := BitVec 32

/-- A TX or RX LO code: 16-bit two's complement (10_state.md R34). -/
abbrev Code := BitVec 16

/-- One filter's history: 11 cells, index 0 the newest, index 10 the oldest (42_fir_filter.md R170). -/
abbrev History := Vector Sample 11

/-- The codes of one direction, one per RF channel (10_state.md R34). -/
abbrev CodeTable := Vector Code 11

end Sys2Proof
end

