-- ==== Sys2Proof/Config.lean ====
section
/-! DEFINITION. What is fixed when the block is built (00_scope.md R8). The OPEN parameters are uninterpreted: a claim holds whatever they are (log 6). -/

namespace Sys2Proof

/-- What `FINE` does when it is stepped past 31 or below 0 (43_controller.md R196). -/
inductive FinePolicy where
  | wrap
  | clamp
  deriving DecidableEq, Repr, Inhabited

namespace Config

/-- `FINE_POLICY`, OPEN (92_eei_decisions.md D14; log 6). -/
opaque finePolicy : FinePolicy

/-- `FACTORY_FINE`, OPEN (92_eei_decisions.md D17; log 6). -/
opaque factoryFine : BitVec 5

/-- `FACTORY_COARSE`, OPEN (92_eei_decisions.md D17; log 6). -/
opaque factoryCoarse : BitVec 5

/-- `FACTORY_TX[c]`, OPEN (92_eei_decisions.md D17; log 6). -/
opaque factoryTx : CodeTable

/-- `FACTORY_RX[c]`, OPEN (92_eei_decisions.md D17; log 6). -/
opaque factoryRx : CodeTable

/-- `RATE_SEED`: 0 ppm (42_fir_filter.md R172; log 7). -/
def rateSeed : Sample := 0

/-- `IF_SEED`: 500 zero crossings (42_fir_filter.md R172; log 7). -/
def ifSeed : Sample := 500

end Config
end Sys2Proof
end

