-- ==== Sys2Proof/Syntax.lean ====
section
/-! DEFINITION. The commands of the block, one constructor per row of the opcode table, and the names of its registers. -/

namespace Sys2Proof

/-- A frame report: the four counters and the three error flags of one received frame (10_state.md R30, 30_encoding.md R102). -/
structure FrameReport where
  ovf : Bool
  cut : Bool
  crc : Bool
  len : BitVec 8
  cdr : BitVec 16
  ifc : BitVec 16
  cec : BitVec 16
  deriving DecidableEq, Repr

/-- The five commands (30_encoding.md R101), with operands at the widths of R102 to R105, so that every term is a command. -/
inductive Instr where
  /-- NOP (45_control.md R250). -/
  | nop
  /-- FRAME (40_frame_intake.md R130). -/
  | frame (rep : FrameReport)
  /-- READ (44_register_access.md R220). -/
  | read (a : RegAddr)
  /-- WRITE (44_register_access.md R222). -/
  | write (a : RegAddr) (d : RegWord)
  /-- SRESET (45_control.md R251). -/
  | sreset
  deriving DecidableEq, Repr

/-- The names of the register map (10_state.md R40). -/
inductive Reg where
  | id
  | cfg
  | status
  | errInfo
  | updateRate
  | activeCh
  | cooldown
  | rateFilt
  | ifFilt
  | fine
  | coarse
  | lastEv
  | rateHist (i : Fin 11)
  | ifHist (i : Fin 11)
  | txCode (c : Fin 11)
  | rxCode (c : Fin 11)
  | cntFrames
  | cntDrop
  | cntOvf
  | cntCut
  | cntCrc
  | cntZlen
  | cntIfsup
  deriving DecidableEq, Repr

end Sys2Proof
end

