-- ==== Sys2Proof/Machine/State.lean ====
section
/-! DEFINITION. The state of the block (10_state.md R30), the ports and the order of steps around it (log 1, 5), and the state after reset (70_reset_and_hazards.md R290). -/

namespace Sys2Proof.Machine

/-- `ERR_CAUSE`: the six causes that are ever produced (60_exceptions.md R261; log 12). -/
inductive ErrCause where
  | none
  | illegalOp
  | reservedBits
  | unmapped
  | readOnly
  | illegalValue
  deriving DecidableEq, Repr

/-- The verdict of one comparison (43_controller.md R192, R193; log 12). -/
inductive Verdict where
  | none
  | inc
  | dec
  deriving DecidableEq, Repr

/-- `LASTEV`: what the most recent ENGINE step did (10_state.md R52). -/
structure LastEv where
  ratePushed : Bool
  ifPushed : Bool
  eval : Bool
  discarded : Bool
  fineAct : Verdict
  loAct : Verdict
  ch : BitVec 4
  zlen : Bool
  ifsup : Bool
  cut : Bool
  deriving DecidableEq, Repr

/-- `LASTEV` with every field 0. -/
def LastEv.cleared : LastEv :=
  ⟨false, false, false, false, .none, .none, 0, false, false, false⟩

/-- The block's state, exactly the tuple of 10_state.md R30. -/
structure Block where
  rateHist : History
  ifHist : History
  cooldown : BitVec 8
  updateRate : BitVec 8
  fine : BitVec 5
  coarse : BitVec 5
  activeCh : BitVec 4
  txCode : CodeTable
  rxCode : CodeTable
  pendValid : Bool
  pendReport : FrameReport
  err : Bool
  errCause : ErrCause
  errInfo : RegWord
  lastEv : LastEv
  cntFrames : RegWord
  cntDrop : RegWord
  cntOvf : RegWord
  cntCut : RegWord
  cntCrc : RegWord
  cntZlen : RegWord
  cntIfsup : RegWord
  deriving DecidableEq, Repr

/-- One turn of the total order of steps (20_memory.md R87): who moves, and with what input (log 1). -/
inductive Turn where
  /-- HOST executes the command word that arrives (00_scope.md R14). -/
  | host (w : CmdWord)
  /-- ENGINE steps, if it is enabled (40_frame_intake.md R133). -/
  | engine
  /-- The platform asserts the reset input (70_reset_and_hazards.md R291). -/
  | rst
  deriving DecidableEq, Repr

/-- The block, the turns still to be taken (the next one first), and the response words returned so far (the oldest first). -/
structure State where
  block : Block
  turns : List Turn
  responses : List CmdWord
  deriving DecidableEq, Repr

/-- No step of the block stops the machine: "The block never hangs, never blocks a command and never faults permanently" (00_scope.md R16).
So there is no fault, nobody raises one, and the type is empty, which is safe (log 14). -/
inductive Fault where
  deriving DecidableEq, Repr

/-- Why a step has no meaning in this model. -/
inductive Refusal where
  /-- Raised by an arm of `exec` whose instruction has no meaning yet, which is safe; every arm has its meaning, so none raises it. -/
  | notModelled (mnemonic : String)
  deriving DecidableEq, Repr

/-- `reset_state()` (70_reset_and_hazards.md R290). -/
def Block.reset : Block where
  rateHist := Vector.replicate 11 Config.rateSeed
  ifHist := Vector.replicate 11 Config.ifSeed
  cooldown := 0
  updateRate := 15
  fine := Config.factoryFine
  coarse := Config.factoryCoarse
  activeCh := 0
  txCode := Config.factoryTx
  rxCode := Config.factoryRx
  pendValid := false
  pendReport := ⟨false, false, false, 0, 0, 0, 0⟩
  err := false
  errCause := .none
  errInfo := 0
  lastEv := LastEv.cleared
  cntFrames := 0
  cntDrop := 0
  cntOvf := 0
  cntCut := 0
  cntCrc := 0
  cntZlen := 0
  cntIfsup := 0

/-- The state in which a run starts (70_reset_and_hazards.md R291): the block after reset, no command on its way, no response given (log 2, 5). -/
def State.reset : State := ⟨Block.reset, [], []⟩

end Sys2Proof.Machine
end

