-- ==== Sys2Proof/Machine/Operands.lean ====
section
/-! DEFINITION. Reading operands and registers as integers, narrowing, the two divisions (00_scope.md R10, R11), and the register map (10_state.md R40). -/

namespace Sys2Proof.Machine

/-- `wrap_N(v)`, as the N-bit word that both `wrap_N` and `swrap_N` read (00_scope.md R10). -/
def wrap (n : Nat) (v : Int) : BitVec n := BitVec.ofInt n v

/-- `zext_N(v)` (00_scope.md R10). -/
def zext {n : Nat} (v : BitVec n) : Int := (v.toNat : Int)

/-- `sext_N(v)` (00_scope.md R10). -/
def sext {n : Nat} (v : BitVec n) : Int := v.toInt

/-- `tdiv(a, b)`: the quotient rounded toward zero (00_scope.md R11; log 9). -/
def tdiv (a b : Int) : Int := Int.tdiv a b

/-- `fdiv(a, b)`: the quotient rounded toward minus infinity (00_scope.md R11). -/
def fdiv (a b : Int) : Int := Int.fdiv a b

/-- The four banks of 11 registers (10_state.md R53 to R56). -/
def bankAt (n : Nat) : Option Reg :=
  if h : 0x10 ≤ n ∧ n < 0x1B then some (.rateHist ⟨n - 0x10, by omega⟩)
  else if h : 0x20 ≤ n ∧ n < 0x2B then some (.ifHist ⟨n - 0x20, by omega⟩)
  else if h : 0x30 ≤ n ∧ n < 0x3B then some (.txCode ⟨n - 0x30, by omega⟩)
  else if h : 0x40 ≤ n ∧ n < 0x4B then some (.rxCode ⟨n - 0x40, by omega⟩)
  else none

/-- The register at an address, or none where the address is unmapped (10_state.md R40, R64). -/
def regAt (a : RegAddr) : Option Reg :=
  match a.toNat with
  | 0x00 => some .id
  | 0x01 => some .cfg
  | 0x02 => some .status
  | 0x03 => some .errInfo
  | 0x04 => some .updateRate
  | 0x05 => some .activeCh
  | 0x06 => some .cooldown
  | 0x07 => some .rateFilt
  | 0x08 => some .ifFilt
  | 0x09 => some .fine
  | 0x0A => some .coarse
  | 0x0B => some .lastEv
  | 0x50 => some .cntFrames
  | 0x51 => some .cntDrop
  | 0x52 => some .cntOvf
  | 0x53 => some .cntCut
  | 0x54 => some .cntCrc
  | 0x55 => some .cntZlen
  | 0x56 => some .cntIfsup
  | n => bankAt n

/-- The address of a register (10_state.md R40). -/
def regAddr : Reg → RegAddr
  | .id => 0x00
  | .cfg => 0x01
  | .status => 0x02
  | .errInfo => 0x03
  | .updateRate => 0x04
  | .activeCh => 0x05
  | .cooldown => 0x06
  | .rateFilt => 0x07
  | .ifFilt => 0x08
  | .fine => 0x09
  | .coarse => 0x0A
  | .lastEv => 0x0B
  | .rateHist i => BitVec.ofNat 8 (0x10 + i.val)
  | .ifHist i => BitVec.ofNat 8 (0x20 + i.val)
  | .txCode c => BitVec.ofNat 8 (0x30 + c.val)
  | .rxCode c => BitVec.ofNat 8 (0x40 + c.val)
  | .cntFrames => 0x50
  | .cntDrop => 0x51
  | .cntOvf => 0x52
  | .cntCut => 0x53
  | .cntCrc => 0x54
  | .cntZlen => 0x55
  | .cntIfsup => 0x56

end Sys2Proof.Machine
end

