-- ==== Sys2Proof/Machine/Filter.lean ====
section
/-! DEFINITION. The FIR smoothing filters (42_fir_filter.md). -/

namespace Sys2Proof.Machine

/-- `KERNEL[0..10]` (42_fir_filter.md R173). -/
def kernel : Vector Int 11 := #v[4, 16, 37, 64, 87, 96, 87, 64, 37, 16, 4]

/-- `push(H, s)`: the sample enters at index 0, every cell moves one place older, the oldest is lost (42_fir_filter.md R171). -/
def push (h : History) (s : Int) : History :=
  #v[wrap 32 s, h[0], h[1], h[2], h[3], h[4], h[5], h[6], h[7], h[8], h[9]]

/-- A push that happens only if the sample is valid (40_frame_intake.md R134). -/
def pushIf (valid : Bool) (h : History) (s : Int) : History := if valid then push h s else h

/-- One product of the filter sum (42_fir_filter.md R173). -/
def tap (h : History) (i : Fin 11) : Int := sext h[i] * kernel[i]

/-- `acc`, an exact integer (42_fir_filter.md R173, R176). -/
def acc (h : History) : Int :=
  tap h 0 + tap h 1 + tap h 2 + tap h 3 + tap h 4 + tap h 5 + tap h 6 + tap h 7 + tap h 8 + tap h 9 + tap h 10

/-- `fir(H)` = ⌊acc / 512⌋ (42_fir_filter.md R173). -/
def fir (h : History) : Int := fdiv (acc h) 512

end Sys2Proof.Machine
end

