-- ==== Sys2Proof/WellFormed.lean ====
section
/-! DEFINITION. Which words are well-formed commands, by the match and mask of the opcode table's rows.
Operands have the exact widths of their fields, and every value of every field is legal (30_encoding.md R109), so well-formedness is a property of words, not of `Instr` terms. -/

namespace Sys2Proof

/-- One row of spec/opcode_table.json: a word belongs to it when its bits under `mask` are those of `fixed`. -/
structure OpcodeRow where
  mnemonic : String
  fixed : CmdWord
  mask : CmdWord
  deriving DecidableEq, Repr

/-- The rows of spec/opcode_table.json, in its order. -/
def opcodeTable : List OpcodeRow :=
  [ ⟨"NOP", 0x0000000000000000, 0xFFFFFFFFFFFFFFFF⟩,
    ⟨"FRAME", 0x1000000000000000, 0xF800000000000000⟩,
    ⟨"READ", 0x2000000000000000, 0xFFFFFF00FFFFFFFF⟩,
    ⟨"WRITE", 0x3000000000000000, 0xFFFFFF0000000000⟩,
    ⟨"SRESET", 0x4000000000000000, 0xFFFFFFFFFFFFFFFF⟩ ]

def OpcodeRow.covers (row : OpcodeRow) (w : CmdWord) : Bool := w &&& row.mask == row.fixed

/-- A word is a well-formed command when some row covers it (30_encoding.md R107). -/
def wellFormedWord (w : CmdWord) : Bool := opcodeTable.any (·.covers w)

end Sys2Proof
end

