-- ==== Sys2Proof/Decode.lean ====
section
/-! DEFINITION. The decoder, total on all command words and reading no state (30_encoding.md R108), the encoder, and the byte order of a carried word (20_memory.md R82). -/

namespace Sys2Proof

/-- Why a word is no command (30_encoding.md R108). -/
inductive DecodeError where
  /-- `OP` is 0x5..0xF. -/
  | illegalOp
  /-- A reserved bit of a legal opcode is 1. -/
  | reservedBits
  deriving DecidableEq, Repr

/-- `OP` = w[63:60] (30_encoding.md R101). -/
def opField (w : CmdWord) : BitVec 4 := w.extractLsb' 60 4

/-- `A` = w[39:32] (30_encoding.md R103, R104). -/
def addrField (w : CmdWord) : RegAddr := w.extractLsb' 32 8

/-- `D` = w[31:0] (30_encoding.md R104). -/
def dataField (w : CmdWord) : RegWord := w.extractLsb' 0 32

/-- The fields of format F (30_encoding.md R102, R106). -/
def reportField (w : CmdWord) : FrameReport where
  ovf := w.getLsbD 58
  cut := w.getLsbD 57
  crc := w.getLsbD 56
  len := w.extractLsb' 48 8
  cdr := w.extractLsb' 32 16
  ifc := w.extractLsb' 16 16
  cec := w.extractLsb' 0 16

/-- `RSVMASK` of the command with this opcode (30_encoding.md R107); an illegal opcode has none, and the decoder never asks for it. -/
def reservedMask (op : BitVec 4) : CmdWord :=
  match op.toNat with
  | 0 => 0x0FFFFFFFFFFFFFFF
  | 1 => 0x0800000000000000
  | 2 => 0x0FFFFF00FFFFFFFF
  | 3 => 0x0FFFFF0000000000
  | _ => 0x0FFFFFFFFFFFFFFF

/-- The decode function (30_encoding.md R108): the opcode is checked first, then the reserved bits. -/
def decode (w : CmdWord) : Except DecodeError Instr :=
  if 5 ≤ (opField w).toNat then .error .illegalOp
  else if w &&& reservedMask (opField w) ≠ 0 then .error .reservedBits
  else
    match (opField w).toNat with
    | 0 => .ok .nop
    | 1 => .ok (.frame (reportField w))
    | 2 => .ok (.read (addrField w))
    | 3 => .ok (.write (addrField w) (dataField w))
    | _ => .ok .sreset

/-- Format F with every reserved bit 0 (30_encoding.md R102). -/
def encodeReport (r : FrameReport) : CmdWord :=
  1#4 ++ 0#1 ++ BitVec.ofBool r.ovf ++ BitVec.ofBool r.cut ++ BitVec.ofBool r.crc ++ r.len ++ r.cdr ++ r.ifc ++ r.cec

/-- The one word of a command (30_encoding.md R102 to R105). -/
def encode : Instr → CmdWord
  | .nop => 0#4 ++ 0#60
  | .frame rep => encodeReport rep
  | .read a => 2#4 ++ 0#20 ++ a ++ 0#32
  | .write a d => 3#4 ++ 0#20 ++ a ++ d
  | .sreset => 4#4 ++ 0#60

/-- The command word that eight carried bytes make, the least significant byte first (20_memory.md R82). -/
def wordOfBytes (bs : Vector Byte 8) : CmdWord :=
  bs[7] ++ bs[6] ++ bs[5] ++ bs[4] ++ bs[3] ++ bs[2] ++ bs[1] ++ bs[0]

/-- Byte k of a carried word is bits [8k+7:8k] (20_memory.md R82). -/
def bytesOfWord (w : CmdWord) : Vector Byte 8 :=
  #v[w.extractLsb' 0 8, w.extractLsb' 8 8, w.extractLsb' 16 8, w.extractLsb' 24 8,
     w.extractLsb' 32 8, w.extractLsb' 40 8, w.extractLsb' 48 8, w.extractLsb' 56 8]

/-- The register word that four carried bytes make, the least significant byte first (20_memory.md R82). -/
def dataOfBytes (bs : Vector Byte 4) : RegWord := bs[3] ++ bs[2] ++ bs[1] ++ bs[0]

/-- Byte k of a carried 32-bit response word is bits [8k+7:8k] (20_memory.md R82). -/
def bytesOfData (d : RegWord) : Vector Byte 4 :=
  #v[d.extractLsb' 0 8, d.extractLsb' 8 8, d.extractLsb' 16 8, d.extractLsb' 24 8]

/-- A command carried as bytes; a partial command cannot be expressed (20_memory.md R83). -/
def decodeBytes (bs : Vector Byte 8) : Except DecodeError Instr := decode (wordOfBytes bs)

/-- The command word with the given bits, every bit from `nbits` up being 0 (log 17). -/
def tableWord (nbits w : Nat) : CmdWord := BitVec.ofNat 64 (w % 2 ^ nbits)

/-- What the decoder reads from the bits of an opcode-table row (log 17). -/
def decodeTableWord (nbits w : Nat) : Option Instr := (decode (tableWord nbits w)).toOption

end Sys2Proof
end

