-- ==== Sys2Proof/Machine/Flags.lean ====
section
/-! DEFINITION. The packed words of the status bits, of `LASTEV` and of `CFG`, the numbers of causes and verdicts, and the counting of events. -/

namespace Sys2Proof.Machine

/-- The code of an error cause (60_exceptions.md R261). -/
def causeCode : ErrCause → BitVec 4
  | .none => 0
  | .illegalOp => 1
  | .reservedBits => 2
  | .unmapped => 3
  | .readOnly => 4
  | .illegalValue => 5

/-- The cause that a word which is no command raises (30_encoding.md R108). -/
def decodeCause : DecodeError → ErrCause
  | .illegalOp => .illegalOp
  | .reservedBits => .reservedBits

/-- The code of a verdict in `LASTEV` (43_controller.md R203). -/
def verdictCode : Verdict → BitVec 2
  | .none => 0
  | .inc => 1
  | .dec => 2

/-- `STATUS` (10_state.md R43). -/
def statusWord (b : Block) : RegWord :=
  0#24 ++ causeCode b.errCause ++ 0#2 ++ BitVec.ofBool b.err ++ BitVec.ofBool b.pendValid

/-- `CFG` (10_state.md R42): `IFVER`, `NCH`, `NTAPS`, seven zero bits, `FINE_CLAMP`. -/
def cfgWord (p : FinePolicy) : RegWord :=
  1#8 ++ 11#8 ++ 11#8 ++ 0#7 ++ BitVec.ofBool (decide (p = .clamp))

/-- `LASTEV` packed (10_state.md R52). -/
def lastEvWord (e : LastEv) : RegWord :=
  0#17 ++ BitVec.ofBool e.cut ++ BitVec.ofBool e.ifsup ++ BitVec.ofBool e.zlen ++ e.ch
    ++ verdictCode e.loAct ++ verdictCode e.fineAct
    ++ BitVec.ofBool e.discarded ++ BitVec.ofBool e.eval ++ BitVec.ofBool e.ifPushed ++ BitVec.ofBool e.ratePushed

/-- A diagnostic counter after an event that may have happened: plus 1 modulo 2^32 if it did (10_state.md R39). -/
def countIf (happened : Bool) (n : RegWord) : RegWord := if happened then n + 1 else n

end Sys2Proof.Machine
end

