-- ==== Sys2Proof/Machine/Ops.lean ====
section
/-! DEFINITION. The operations every command shares: the response, the command error and its acknowledgement, taking the next turn. -/

namespace Sys2Proof.Machine

/-- The response word (30_encoding.md R110). -/
def responseWord (ok : Bool) (data : RegWord) : CmdWord := 0#31 ++ BitVec.ofBool (!ok) ++ data

/-- The 32-bit response word that 20_memory.md R82 carries as bytes: `data`, bits [31:0] of a response (30_encoding.md R110).
R100 and R110 make a response 64 bits, so that R82's 32-bit response word is its `data` is the model's choice (log 19). -/
def responseData (r : CmdWord) : RegWord := r.extractLsb' 0 32

/-- The four bytes a host carries a response's `data` as, the least significant first (20_memory.md R82; log 19).
The whole response, with its FAIL bit, is carried as any 64-bit word is, by `bytesOfWord`. -/
def responseBytes (r : CmdWord) : Vector Byte 4 := bytesOfData (responseData r)

/-- `respond(ok, data)` (00_scope.md R12): the command's one response, after those of the commands before it (20_memory.md R88). -/
def respond (ok : Bool) (data : RegWord) (s : State) : State :=
  { s with responses := s.responses ++ [responseWord ok data] }

/-- The error status after an error (60_exceptions.md R262); it overwrites an earlier one (R265). -/
def recordError (c : ErrCause) (w : CmdWord) (b : Block) : Block :=
  { b with err := true, errCause := c, errInfo := w.extractLsb' 32 32 }

/-- `raise CmdError(c)` for the command word w (60_exceptions.md R262): the block's only exception. -/
def raiseCmdError (c : ErrCause) (w : CmdWord) (s : State) : State :=
  respond false ((causeCode c).setWidth 32) { s with block := recordError c w s.block }

/-- The acknowledgement of an error (60_exceptions.md R264; 44_register_access.md R224). -/
def clearError (b : Block) : Block :=
  { b with err := false, errCause := .none, errInfo := 0 }

/-- A word that is no command raises its error (30_encoding.md R108). -/
def rejectWord (e : DecodeError) (w : CmdWord) (s : State) : State :=
  raiseCmdError (decodeCause e) w s

/-- The next turn, taken off the list; when the list is used up the turn is ENGINE's, which is the fairness of 00_scope.md R14 (log 3). -/
def takeTurn (s : State) : Turn × State :=
  match s.turns with
  | [] => (.engine, s)
  | t :: rest => (t, { s with turns := rest })

end Sys2Proof.Machine
end

