-- ==== Sys2Proof/Machine/Access.lean ====
section
/-! DEFINITION. Register access: READ and WRITE (44_register_access.md). -/

namespace Sys2Proof.Machine

/-- `RegRead` (44_register_access.md R221): signed registers read sign-extended, the others zero-extended (R229). -/
def readReg (p : FinePolicy) (b : Block) : Reg → RegWord
  | .id => 0x46495232
  | .cfg => cfgWord p
  | .status => statusWord b
  | .errInfo => b.errInfo
  | .updateRate => b.updateRate.setWidth 32
  | .activeCh => b.activeCh.setWidth 32
  | .cooldown => b.cooldown.setWidth 32
  | .rateFilt => wrap 32 (fir b.rateHist)
  | .ifFilt => wrap 32 (fir b.ifHist)
  | .fine => b.fine.setWidth 32
  | .coarse => b.coarse.setWidth 32
  | .lastEv => lastEvWord b.lastEv
  | .rateHist i => wrap 32 (sext b.rateHist[i])
  | .ifHist i => wrap 32 (sext b.ifHist[i])
  | .txCode c => wrap 32 (sext b.txCode[c])
  | .rxCode c => wrap 32 (sext b.rxCode[c])
  | .cntFrames => b.cntFrames
  | .cntDrop => b.cntDrop
  | .cntOvf => b.cntOvf
  | .cntCut => b.cntCut
  | .cntCrc => b.cntCrc
  | .cntZlen => b.cntZlen
  | .cntIfsup => b.cntIfsup

/-- READ (44_register_access.md R220). -/
def execRead (a : RegAddr) (s : State) : Host.Outcome State Fault Refusal :=
  match regAt a with
  | none => .next (raiseCmdError .unmapped (encode (.read a)) s)
  | some r => .next (respond true (readReg Config.finePolicy s.block r) s)

/-- `write_status` (44_register_access.md R224). -/
def writeStatus (d : RegWord) (b : Block) : Block := if d.getLsbD 1 then clearError b else b

/-- `write_update_rate` (44_register_access.md R225). -/
def writeUpdateRate (d : RegWord) (b : Block) : Except ErrCause Block :=
  if zext d < 1 ∨ zext d > 255 then .error .illegalValue
  else .ok { b with updateRate := d.extractLsb' 0 8, cooldown := 0 }

/-- `write_active_ch` (44_register_access.md R226). -/
def writeActiveCh (d : RegWord) (b : Block) : Except ErrCause Block :=
  if zext d > 10 then .error .illegalValue
  else .ok { b with activeCh := d.extractLsb' 0 4 }

/-- `RegWrite`: three registers are writable, every other mapped one is read-only (44_register_access.md R222, R223, R227). -/
def writeReg (r : Reg) (d : RegWord) (b : Block) : Except ErrCause Block :=
  match r with
  | .status => .ok (writeStatus d b)
  | .updateRate => writeUpdateRate d b
  | .activeCh => writeActiveCh d b
  | _ => .error .readOnly

/-- WRITE (44_register_access.md R222); the word an error records is the command's own (log 8). -/
def execWrite (a : RegAddr) (d : RegWord) (s : State) : Host.Outcome State Fault Refusal :=
  match regAt a with
  | none => .next (raiseCmdError .unmapped (encode (.write a d)) s)
  | some r =>
    match writeReg r d s.block with
    | .error c => .next (raiseCmdError c (encode (.write a d)) s)
    | .ok b => .next (respond true 0 { s with block := b })

end Sys2Proof.Machine
end

