-- ==== Sys2Proof/Machine/Control.lean ====
section
/-! DEFINITION. Control commands: NOP and SRESET (45_control.md), and the reset input (70_reset_and_hazards.md R291). -/

namespace Sys2Proof.Machine

/-- `reset_state()` on the block; the commands still to come and the responses given are not the block's (70_reset_and_hazards.md R290; log 5). -/
def resetState (s : State) : State := { s with block := Block.reset }

/-- NOP (45_control.md R250). -/
def execNop (s : State) : Host.Outcome State Fault Refusal := .next (respond true 0 s)

/-- SRESET (45_control.md R251). -/
def execSreset (s : State) : Host.Outcome State Fault Refusal := .next (respond true 0 (resetState s))

/-- The reset input: the effect of SRESET, with no response (70_reset_and_hazards.md R291). -/
def rstTurn (s : State) : State := resetState s

end Sys2Proof.Machine
end

