-- ==== Sys2Proof/Machine/Intake.lean ====
section
/-! DEFINITION. Frame intake: FRAME (40_frame_intake.md R130 to R132). -/

namespace Sys2Proof.Machine

/-- The report enters the slot; the newest report wins, and a report it overwrites is counted (40_frame_intake.md R131). -/
def acceptReport (rep : FrameReport) (b : Block) : Block :=
  { b with cntDrop := countIf b.pendValid b.cntDrop, pendReport := rep, pendValid := true }

/-- FRAME (40_frame_intake.md R130). -/
def execFrame (rep : FrameReport) (s : State) : Host.Outcome State Fault Refusal :=
  .next (respond true 0 { s with block := acceptReport rep s.block })

end Sys2Proof.Machine
end

