-- ==== Sys2Proof/Machine/Dispatch.lean ====
section
/-! DEFINITION. One arm per command. -/

namespace Sys2Proof.Machine

def exec (i : Instr) (s : State) : Host.Outcome State Fault Refusal :=
  match i with
  | .nop => Sys2Proof.Machine.execNop s
  | .frame rep => Sys2Proof.Machine.execFrame rep s
  | .read a => Sys2Proof.Machine.execRead a s
  | .write a d => Sys2Proof.Machine.execWrite a d s
  | .sreset => Sys2Proof.Machine.execSreset s

end Sys2Proof.Machine
end

