-- ==== Sys2Proof/Machine/Controller.lean ====
section
/-! DEFINITION. The calibration threshold comparator with cooldown (43_controller.md). -/

namespace Sys2Proof.Machine

/-- The rate comparison (43_controller.md R192). -/
def rateVerdict (rf : Int) : Verdict :=
  if rf > 1000 then .inc else if rf < -1000 then .dec else .none

/-- The IF comparison (43_controller.md R193). -/
def ifVerdict (iff : Int) : Verdict :=
  if iff > 520 then .inc else if iff < 480 then .dec else .none

/-- `apply_fine` (43_controller.md R196). -/
def applyFine (p : FinePolicy) (v : Verdict) (fine : BitVec 5) : BitVec 5 :=
  match v, p with
  | .inc, .wrap => wrap 5 ((zext fine + 1) % 32)
  | .inc, .clamp => wrap 5 (min (zext fine + 1) 31)
  | .dec, .wrap => wrap 5 ((zext fine - 1) % 32)
  | .dec, .clamp => wrap 5 (max (zext fine - 1) 0)
  | .none, _ => fine

/-- The step of a verdict (43_controller.md R197). -/
def verdictStep : Verdict → Int
  | .inc => 1
  | .dec => -1
  | .none => 0

/-- One LO code moved by a step, wrapping at 16 bits (43_controller.md R197). -/
def stepCode (d : Int) (c : Code) : Code := wrap 16 (sext c + d)

/-- The code of channel `ch` moved; every other code stays (43_controller.md R198).
No code exists for `ch` in 11..15, which no run reaches, and none moves (log 11). -/
def stepChannel (d : Int) (ch : BitVec 4) (codes : CodeTable) : CodeTable :=
  if h : ch.toNat < 11 then codes.set ch.toNat (stepCode d codes[ch.toNat]) else codes

/-- `apply_lo`: TX and RX together, by the same step (43_controller.md R197). -/
def applyLo (v : Verdict) (ch : BitVec 4) (b : Block) : Block :=
  { b with
    txCode := stepChannel (verdictStep v) ch b.txCode
    rxCode := stepChannel (verdictStep v) ch b.rxCode }

/-- What `controller_step` leaves and returns (43_controller.md R203). -/
structure ControllerResult where
  block : Block
  eval : Bool
  fineAct : Verdict
  loAct : Verdict
  deriving DecidableEq, Repr

/-- The evaluation: both comparisons, both applied, the cooldown back to 0 (43_controller.md R194, R195). -/
def evaluate (p : FinePolicy) (ch : BitVec 4) (b : Block) : ControllerResult :=
  let fineAct := rateVerdict (fir b.rateHist)
  let loAct := ifVerdict (fir b.ifHist)
  { block := applyLo loAct ch { b with fine := applyFine p fineAct b.fine, cooldown := 0 }
    eval := true
    fineAct := fineAct
    loAct := loAct }

/-- `controller_step(ch)` (43_controller.md R203); the 8-bit write never wraps in a state a run reaches (R190; log 11). -/
def controllerStep (p : FinePolicy) (ch : BitVec 4) (b : Block) : ControllerResult :=
  let cd := zext b.cooldown + 1
  if cd = zext b.updateRate then evaluate p ch b
  else { block := { b with cooldown := wrap 8 cd }, eval := false, fineAct := .none, loAct := .none }

end Sys2Proof.Machine
end

