-- ==== Sys2Proof/Machine/Estimator.lean ====
section
/-! DEFINITION. The frequency and timing error estimator (41_estimator.md). -/

namespace Sys2Proof.Machine

/-- What the estimator yields for one report (41_estimator.md R158); a value whose valid flag is false is 0 and never read. -/
structure Estimate where
  rateValid : Bool
  rate : Int
  ifValid : Bool
  ifs : Int
  zlen : Bool
  ifsup : Bool
  deriving DecidableEq, Repr

/-- The chip-rate error sample in ppm (41_estimator.md R151). -/
def rateSample (cdr len : Int) : Int := tdiv (cdr * 15625) (len * 8)

/-- The IF sample is trusted below this chip-error count (41_estimator.md R154). -/
def ifTrusted (cec : BitVec 16) : Bool := decide (zext cec < 25)

/-- The `estimate` function: the cutoff, then the zero-length guard, then the samples (41_estimator.md R158). -/
def estimate (rep : FrameReport) : Estimate :=
  if rep.cut then ⟨false, 0, false, 0, false, false⟩
  else if zext rep.len = 0 then ⟨false, 0, false, 0, true, false⟩
  else if ifTrusted rep.cec then ⟨true, rateSample (sext rep.cdr) (zext rep.len), true, zext rep.ifc, false, false⟩
  else ⟨true, rateSample (sext rep.cdr) (zext rep.len), false, 0, false, true⟩

end Sys2Proof.Machine
end

