-- ==== Sys2Proof/Machine/Engine.lean ====
section
/-! DEFINITION. The ENGINE step (40_frame_intake.md R133 to R137). -/

namespace Sys2Proof.Machine

/-- The flag counting that comes first, whatever `ovf` is (40_frame_intake.md R134, R137). -/
def countFlags (rep : FrameReport) (b : Block) : Block :=
  { b with cntCrc := countIf rep.crc b.cntCrc, cntCut := countIf rep.cut b.cntCut }

/-- A report with `ovf` = 1 is discarded (40_frame_intake.md R135). -/
def discardFrame (ch : BitVec 4) (b : Block) : Block :=
  { b with
    cntOvf := countIf true b.cntOvf
    lastEv := { LastEv.cleared with discarded := true, ch := ch } }

/-- The counters and the histories after the estimate of a processed frame (40_frame_intake.md R134). -/
def takeSamples (est : Estimate) (b : Block) : Block :=
  { b with
    cntFrames := countIf true b.cntFrames
    cntZlen := countIf est.zlen b.cntZlen
    cntIfsup := countIf est.ifsup b.cntIfsup
    rateHist := pushIf est.rateValid b.rateHist est.rate
    ifHist := pushIf est.ifValid b.ifHist est.ifs }

/-- The `LASTEV` of a processed frame (40_frame_intake.md R134). -/
def processedEvent (est : Estimate) (r : ControllerResult) (ch : BitVec 4) (cut : Bool) : LastEv where
  ratePushed := est.rateValid
  ifPushed := est.ifValid
  eval := r.eval
  discarded := false
  fineAct := r.fineAct
  loAct := r.loAct
  ch := ch
  zlen := est.zlen
  ifsup := est.ifsup
  cut := cut

/-- A processed frame: estimator, then filters, then controller, then `LASTEV` (40_frame_intake.md R134). -/
def processFrame (p : FinePolicy) (rep : FrameReport) (ch : BitVec 4) (b : Block) : Block :=
  let est := estimate rep
  let r := controllerStep p ch (takeSamples est b)
  { r.block with lastEv := processedEvent est r ch rep.cut }

/-- `ENGINE_STEP`, on a block whose slot is full (40_frame_intake.md R134). -/
def consumeReport (p : FinePolicy) (b : Block) : Block :=
  let counted := countFlags b.pendReport { b with pendValid := false }
  if b.pendReport.ovf then discardFrame b.activeCh counted
  else processFrame p b.pendReport b.activeCh counted

/-- A turn of ENGINE: its one step if the slot is full (40_frame_intake.md R133), and nothing otherwise (log 4). -/
def engineTurn (p : FinePolicy) (s : State) : State :=
  if s.block.pendValid then { s with block := consumeReport p s.block } else s

end Sys2Proof.Machine
end

