-- ==== Sys2Proof/Machine/Step.lean ====
section
/-! DEFINITION. One step: the next turn is taken, by HOST, by ENGINE or by the reset input (00_scope.md R13, R14; 20_memory.md R87). -/

namespace Sys2Proof.Machine

/-- A HOST step: decode the word, then the command's rule or the decoding error (30_encoding.md R108). -/
def hostTurn (w : CmdWord) (s : State) : Host.Outcome State Fault Refusal :=
  match decode w with
  | .ok i => exec i s
  | .error e => .next (rejectWord e w s)

def step (s : State) : Host.Outcome State Fault Refusal :=
  match takeTurn s with
  | (.host w, s') => hostTurn w s'
  | (.engine, s') => .next (engineTurn Config.finePolicy s')
  | (.rst, s') => .next (rstTurn s')

/-- The state with one more command arriving, ahead of every other turn (log 2, 17). -/
def State.withFetchWord (s : State) (nbits w : Nat) : State :=
  { s with turns := .host (tableWord nbits w) :: s.turns }

end Sys2Proof.Machine
end

