-- ==== Sys2Proof/Machine/Assembler.lean ====
section
/-! DEFINITION. The textual syntax of commands and the pseudo-instructions (30_encoding.md R112, R113): a host tool's half of the interface, with no effect on what a command does (92_eei_decisions.md D34). -/

namespace Sys2Proof.Machine

/-- `<reg>`: a register name or a numeric address (30_encoding.md R112). -/
inductive RegRef where
  | reg (r : Reg)
  | addr (a : Nat)
  deriving DecidableEq, Repr

/-- One line of the assembler, with its integers as written (30_encoding.md R112, R113). -/
inductive AsmStmt where
  | nop
  | frame (cdr : Int) (len ifc cec : Nat) (crc cut ovf : Bool)
  | read (r : RegRef)
  | write (r : RegRef) (d : Nat)
  | sreset
  | setRate (n : Nat)
  | setCh (c : Nat)
  | clrErr
  | rdFilt
  | waitIdle
  deriving DecidableEq, Repr

/-- An unsigned value that fits its field, or a refusal by the tool (30_encoding.md R112). -/
def fitNat (n v : Nat) : Option (BitVec n) := if v < 2 ^ n then some (BitVec.ofNat n v) else none

/-- A signed value that fits its field, encoded as `wrap_n`, or a refusal by the tool (30_encoding.md R112). -/
def fitInt (n : Nat) (v : Int) : Option (BitVec n) :=
  if -2 ^ (n - 1) ≤ v ∧ v < 2 ^ (n - 1) then some (wrap n v) else none

def refAddr : RegRef → Option RegAddr
  | .reg r => some (regAddr r)
  | .addr a => fitNat 8 a

/-- The poll of `WAITIDLE`, which the host repeats while `pollAgain` holds of its response (30_encoding.md R113). -/
def idlePoll : Instr := .read (regAddr .status)

/-- Bit 0 of the response's data is still 1 (30_encoding.md R113). -/
def pollAgain (response : CmdWord) : Bool := response.getLsbD 0

/-- The commands of a line (30_encoding.md R112, R113); none where the tool refuses a value. -/
def expand : AsmStmt → Option (List Instr)
  | .nop => some [.nop]
  | .frame cdr len ifc cec crc cut ovf => do
    let len ← fitNat 8 len
    let cdr ← fitInt 16 cdr
    let ifc ← fitNat 16 ifc
    let cec ← fitNat 16 cec
    some [.frame ⟨ovf, cut, crc, len, cdr, ifc, cec⟩]
  | .read r => do some [.read (← refAddr r)]
  | .write r d => do some [.write (← refAddr r) (← fitNat 32 d)]
  | .sreset => some [.sreset]
  | .setRate n => do some [.write (regAddr .updateRate) (← fitNat 32 n)]
  | .setCh c => do some [.write (regAddr .activeCh) (← fitNat 32 c)]
  | .clrErr => some [.write (regAddr .status) 2]
  | .rdFilt => some [.read (regAddr .rateFilt), .read (regAddr .ifFilt)]
  | .waitIdle => some [idlePoll]

/-! ### The text of a line (log 16) -/

inductive Token where
  | word (cs : List Char)
  | sym (c : Char)
  deriving DecidableEq, Repr

def closeWord (cs : List Char) : List Token := if cs = [] then [] else [.word cs]

/-- The tokens of a line; `;` starts a comment (30_encoding.md R112). -/
def tokens : List Char → List Char → List Token
  | cur, [] => closeWord cur
  | cur, c :: cs =>
    if c = ';' then closeWord cur
    else if c = ' ' ∨ c = '\t' then closeWord cur ++ tokens [] cs
    else if c ∈ [',', '=', '[', ']', '-'] then closeWord cur ++ .sym c :: tokens [] cs
    else tokens (cur ++ [c]) cs

/-- The place of a digit among the digits of hexadecimal, whose letters may have either case (log 16). -/
def digitValue (digit : Char) : Option Nat :=
  ("0123456789ABCDEF".toList.idxOf? digit).or ("0123456789abcdef".toList.idxOf? digit)

/-- The number that digits of a base write, the most significant first. -/
def digits (base : Nat) (ds : List Char) : Option Nat :=
  ds.foldlM (fun value digit => ((digitValue digit).filter (· < base)).map (base * value + ·)) 0

/-- An integer, decimal or hexadecimal with `0x`, where `_` carries no meaning (30_encoding.md R112, 00_scope.md R9). -/
def number : List Char → Option Nat
  | '0' :: 'x' :: cs =>
    match cs.filter (· != '_') with
    | [] => none
    | ds => digits 16 ds
  | [] => none
  | cs => digits 10 cs

/-- The names of the registers that stand alone (10_state.md R40). -/
def plainReg (name : List Char) : Option Reg :=
  [("ID", Reg.id), ("CFG", .cfg), ("STATUS", .status), ("ERRINFO", .errInfo), ("UPDATE_RATE", .updateRate),
   ("ACTIVE_CH", .activeCh), ("COOLDOWN", .cooldown), ("RATE_FILT", .rateFilt), ("IF_FILT", .ifFilt),
   ("FINE", .fine), ("COARSE", .coarse), ("LASTEV", .lastEv), ("CNT_FRAMES", .cntFrames), ("CNT_DROP", .cntDrop),
   ("CNT_OVF", .cntOvf), ("CNT_CUT", .cntCut), ("CNT_CRC", .cntCrc), ("CNT_ZLEN", .cntZlen), ("CNT_IFSUP", .cntIfsup)]
  |>.findSome? fun (text, r) => if text.toList = name then some r else none

/-- The names of the banks (10_state.md R53 to R56). -/
def bankReg (name : List Char) (i : Fin 11) : Option Reg :=
  [("RATE_HIST", Reg.rateHist i), ("IF_HIST", .ifHist i), ("TX_CODE", .txCode i), ("RX_CODE", .rxCode i)]
  |>.findSome? fun (text, r) => if text.toList = name then some r else none

def parseRef : List Token → Option (RegRef × List Token)
  | .word name :: .sym '[' :: .word i :: .sym ']' :: rest => do
    let n ← number i
    if h : n < 11 then
      let r ← bankReg name ⟨n, h⟩
      some (.reg r, rest)
    else none
  | .word name :: rest =>
    match plainReg name, number name with
    | some r, _ => some (.reg r, rest)
    | none, some a => some (.addr a, rest)
    | none, none => none
  | _ => none

/-- `<name>=<integer>`, with a minus sign before the integer or no sign.
30_encoding.md R112 has integers decimal or hexadecimal and `cdr` "a signed decimal", and leaves open whether `cdr` may be hexadecimal and how its sign is written.
The model's choice (log 16): the magnitude is decimal or hexadecimal as for every integer (`cdr=-0x10` is -16), and a plus sign is refused. -/
def parseField (name : String) : List Token → Option (Int × List Token)
  | .word w :: .sym '=' :: .sym '-' :: .word v :: rest => do
    let n ← number v
    if w = name.toList then some (-(n : Int), rest) else none
  | .word w :: .sym '=' :: .word v :: rest => do
    let n ← number v
    if w = name.toList then some ((n : Int), rest) else none
  | _ => none

/-- An unsigned field: the value written is not negative, so `-0` is taken as 0 (the model's choice, log 16). -/
def parseNatField (name : String) (ts : List Token) : Option (Nat × List Token) := do
  let (v, rest) ← parseField name ts
  if 0 ≤ v then some (v.toNat, rest) else none

def parseComma : List Token → Option (List Token)
  | .sym ',' :: rest => some rest
  | _ => none

/-- `, <flag>` or nothing; an absent flag is 0 (30_encoding.md R112). -/
def parseFlag (name : String) : List Token → Bool × List Token
  | .sym ',' :: .word w :: rest => if w = name.toList then (true, rest) else (false, .sym ',' :: .word w :: rest)
  | ts => (false, ts)

def parseFrame (ts : List Token) : Option AsmStmt := do
  let (cdr, ts) ← parseField "cdr" ts
  let ts ← parseComma ts
  let (len, ts) ← parseNatField "len" ts
  let ts ← parseComma ts
  let (ifc, ts) ← parseNatField "ifc" ts
  let ts ← parseComma ts
  let (cec, ts) ← parseNatField "cec" ts
  let (crc, ts) := parseFlag "crc" ts
  let (cut, ts) := parseFlag "cut" ts
  let (ovf, ts) := parseFlag "ovf" ts
  if ts = [] then some (.frame cdr len ifc cec crc cut ovf) else none

def parseWrite (ts : List Token) : Option AsmStmt := do
  let (r, ts) ← parseRef ts
  match ← parseComma ts with
  | [.word v] => do some (.write r (← number v))
  | _ => none

def parseRead (ts : List Token) : Option AsmStmt := do
  let (r, ts) ← parseRef ts
  if ts = [] then some (.read r) else none

def parseNumber : List Token → Option Nat
  | [.word v] => number v
  | _ => none

/-- The statement that follows a mnemonic's own text (30_encoding.md R112, R113). -/
def parseStmt (mnemonic : List Char) (ts : List Token) : Option AsmStmt :=
  if mnemonic = "FRAME".toList then parseFrame ts
  else if mnemonic = "READ".toList then parseRead ts
  else if mnemonic = "WRITE".toList then parseWrite ts
  else if mnemonic = "SETRATE".toList then (parseNumber ts).map .setRate
  else if mnemonic = "SETCH".toList then (parseNumber ts).map .setCh
  else if ts ≠ [] then none
  else
    [("NOP", AsmStmt.nop), ("SRESET", .sreset), ("CLRERR", .clrErr), ("RDFILT", .rdFilt), ("WAITIDLE", .waitIdle)]
    |>.findSome? fun (text, stmt) => if text.toList = mnemonic then some stmt else none

/-- The command words of one line of text; an empty line or a comment gives none, and a refused line no answer (30_encoding.md R112). -/
def assembleLine (line : List Char) : Option (List CmdWord) :=
  match tokens [] line with
  | [] => some []
  | .word mnemonic :: rest => do
    let stmt ← parseStmt mnemonic rest
    let commands ← expand stmt
    some (commands.map encode)
  | .sym _ :: _ => none

end Sys2Proof.Machine
end

