-- ==== Sys2Proof/Safety.lean ====
section
/-! DEFINITION. What holds between steps (10_state.md R66) and when a run has ended (70_reset_and_hazards.md R302), in the terms the claims use. -/

namespace Sys2Proof.Machine

/-- A rate cell holds the seed or lies in the range of rate samples (10_state.md R66 item 7). -/
abbrev rateCellOk (c : Sample) : Prop := c = Config.rateSeed ∨ (-64000000 ≤ c.toInt ∧ c.toInt ≤ 64000000)

/-- An IF cell holds the seed or lies in the range of IF samples (10_state.md R66 item 7). -/
abbrev ifCellOk (c : Sample) : Prop := c = Config.ifSeed ∨ (0 ≤ c.toInt ∧ c.toInt ≤ 65535)

/-- The error status agrees with its sticky bit (10_state.md R66 item 5). -/
abbrev errorStatusOk (b : Block) : Prop :=
  (b.err = false → b.errCause = .none ∧ b.errInfo = 0) ∧ (b.err = true → b.errCause ≠ .none)

/-- The invariants of 10_state.md R66 that the types do not already give (items 1, 4 and 6 hold by type). -/
abbrev Block.Inv (b : Block) : Prop :=
  (1 ≤ b.updateRate.toNat ∧ b.cooldown.toNat < b.updateRate.toNat)
    ∧ b.activeCh.toNat ≤ 10
    ∧ errorStatusOk b
    ∧ (∀ i : Fin 11, rateCellOk b.rateHist[i])
    ∧ ∀ i : Fin 11, ifCellOk b.ifHist[i]

abbrev State.Inv (s : State) : Prop := s.block.Inv

/-- The mapped addresses, as 10_state.md R40 lists them. -/
abbrev mappedAddr (a : RegAddr) : Prop :=
  a.toNat ≤ 0x0B ∨ (0x10 ≤ a.toNat ∧ a.toNat ≤ 0x1A) ∨ (0x20 ≤ a.toNat ∧ a.toNat ≤ 0x2A)
    ∨ (0x30 ≤ a.toNat ∧ a.toNat ≤ 0x3A) ∨ (0x40 ≤ a.toNat ∧ a.toNat ≤ 0x4A) ∨ (0x50 ≤ a.toNat ∧ a.toNat ≤ 0x56)

/-- The unmapped addresses, as 10_state.md R64 lists them. -/
abbrev unmappedAddr (a : RegAddr) : Prop :=
  (0x0C ≤ a.toNat ∧ a.toNat ≤ 0x0F) ∨ (0x1B ≤ a.toNat ∧ a.toNat ≤ 0x1F) ∨ (0x2B ≤ a.toNat ∧ a.toNat ≤ 0x2F)
    ∨ (0x3B ≤ a.toNat ∧ a.toNat ≤ 0x3F) ∨ (0x4B ≤ a.toNat ∧ a.toNat ≤ 0x4F) ∨ (0x57 ≤ a.toNat ∧ a.toNat ≤ 0xFF)

/-- The sum of 42_fir_filter.md R173 written out: Σ H[i] · KERNEL[i]. -/
abbrev weightedSum (h : History) : Int :=
  4 * h[0].toInt + 16 * h[1].toInt + 37 * h[2].toInt + 64 * h[3].toInt + 87 * h[4].toInt + 96 * h[5].toInt
    + 87 * h[6].toInt + 64 * h[7].toInt + 37 * h[8].toInt + 16 * h[9].toInt + 4 * h[10].toInt

/-- ENGINE's next step is about to happen: it has the turn, and the slot is full (40_frame_intake.md R133). -/
abbrev State.engineDue (s : State) (rest : List Turn) : Prop := s.turns = .engine :: rest ∧ s.block.pendValid = true

/-- ENGINE has the turn, listed or because the list is used up (log 3), and the slot is full. -/
abbrev State.engineNext (s : State) : Prop :=
  (s.turns = [] ∨ ∃ rest, s.turns = .engine :: rest) ∧ s.block.pendValid = true

/-- A reset has the turn: the reset input or the SRESET word (70_reset_and_hazards.md R291). -/
abbrev State.resetNext (s : State) : Prop :=
  ∃ rest, s.turns = .rst :: rest ∨ s.turns = .host 0x4000000000000000 :: rest

/-- The run has ended: no turn is left, and ENGINE has no step (70_reset_and_hazards.md R302).
R302 speaks of the last command and the slot, and not of the reset input.
The model's choice (log 18): a reset or an ENGINE turn listed after the last command still belongs to the run, so the run ends when no turn of any kind is left. -/
abbrev State.runEnded (s : State) : Prop := s.turns = [] ∧ s.block.pendValid = false

end Sys2Proof.Machine
end

