-- ==== Sys2Proof/Certificates/Slice0/Obligations.lean ====
section
/-! DEFINITION. What is claimed of the model, each statement from a numbered rule of spec/ or from the sections it names. -/

open Sys2Proof Sys2Proof.Machine

/-! ### Encoding -/

/-- The example words of 30_encoding.md R114, and two more words written out from R101 to R105. -/
def Obligations.PublishedWordsDecode : Prop :=
  decode 0x1014001001F40000 = .ok (.frame ⟨false, false, false, 20, 16, 500, 0⟩)
    ∧ decode 0x1114FFF001F4001E = .ok (.frame ⟨false, false, true, 20, -16, 500, 30⟩)
    ∧ decode 0x2000000700000000 = .ok (.read 0x07)
    ∧ decode 0x3000000400000003 = .ok (.write 0x04 3)
    ∧ decode 0x3000000200000002 = .ok (.write 0x02 2)
    ∧ decode 0x4000000000000000 = .ok .sreset
    ∧ decode 0x0000000000000000 = .ok .nop
    ∧ decode 0x5000000000000000 = .error .illegalOp
    ∧ decode 0x1800000000000000 = .error .reservedBits

/-- Every command comes back from its word with every operand (30_encoding.md R102 to R108). -/
def Obligations.DecodeInvertsEncode : Prop := ∀ i : Instr, decode (encode i) = .ok i

/-- A command has one word only, so the word that `ERRINFO` records is determined by the command (30_encoding.md R102 to R108; log 8). -/
def Obligations.EncodeInvertsDecode : Prop := ∀ (w : CmdWord) (i : Instr), decode w = .ok i → encode i = w

/-- The decoder takes exactly the words of the opcode table, and no word belongs to two rows (30_encoding.md R101, R107). -/
def Obligations.DecoderTakesExactlyTheOpcodeTable : Prop :=
  ∀ w : CmdWord, (wellFormedWord w = true ↔ ∃ i, decode w = .ok i) ∧ (opcodeTable.filter (·.covers w)).length ≤ 1

/-- 30_encoding.md R106: the fields as numbers, `cdr` alone read as signed. -/
def Obligations.FieldsAreReadUnscaled : Prop :=
  ∀ w : CmdWord,
    (∀ rep, decode w = .ok (.frame rep) →
      rep.ovf = w.getLsbD 58 ∧ rep.cut = w.getLsbD 57 ∧ rep.crc = w.getLsbD 56
        ∧ rep.len.toNat = w.toNat / 2 ^ 48 % 2 ^ 8
        ∧ rep.cdr.toInt = (if w.toNat / 2 ^ 32 % 2 ^ 16 < 32768 then ((w.toNat / 2 ^ 32 % 2 ^ 16 : Nat) : Int)
            else ((w.toNat / 2 ^ 32 % 2 ^ 16 : Nat) : Int) - 65536)
        ∧ rep.ifc.toNat = w.toNat / 2 ^ 16 % 2 ^ 16 ∧ rep.cec.toNat = w.toNat % 2 ^ 16)
      ∧ (∀ a, decode w = .ok (.read a) → a.toNat = w.toNat / 2 ^ 32 % 2 ^ 8)
      ∧ ∀ a d, decode w = .ok (.write a d) → a.toNat = w.toNat / 2 ^ 32 % 2 ^ 8 ∧ d.toNat = w.toNat % 2 ^ 32

/-- 20_memory.md R82: byte k is bits [8k+7:8k], of a command word, which its carried bytes make again and decode as, and of a 32-bit response word.
That the 32-bit response word is the response's `data`, and that the bytes of the whole response begin with it, is the model's choice (log 19). -/
def Obligations.CarriedBytesAreLittleEndian : Prop :=
  ∀ w : CmdWord, (∀ (k : Fin 8) (j : Nat), j < 8 → (bytesOfWord w)[k].getLsbD j = w.getLsbD (8 * k.val + j))
    ∧ wordOfBytes (bytesOfWord w) = w ∧ decodeBytes (bytesOfWord w) = decode w
    ∧ ∀ (ok : Bool) (data : RegWord), dataOfBytes (responseBytes (responseWord ok data)) = data
      ∧ ∀ k : Fin 4, (bytesOfWord (responseWord ok data))[k.val] = (responseBytes (responseWord ok data))[k]
        ∧ ∀ j : Nat, j < 8 → (responseBytes (responseWord ok data))[k].getLsbD j = data.getLsbD (8 * k.val + j)

/-- 30_encoding.md R113: the expansions of the pseudo-instructions, and the test of the `WAITIDLE` loop. -/
def Obligations.PseudoInstructionsExpand : Prop :=
  (∀ n : Nat, n < 2 ^ 32 → expand (.setRate n) = some [.write 0x04 (BitVec.ofNat 32 n)]
      ∧ expand (.setCh n) = some [.write 0x05 (BitVec.ofNat 32 n)])
    ∧ expand .clrErr = some [.write 0x02 2]
    ∧ expand .rdFilt = some [.read 0x07, .read 0x08]
    ∧ expand .waitIdle = some [.read 0x02]
    ∧ ∀ data : RegWord, pollAgain (0#32 ++ data) = data.getLsbD 0

/-- 30_encoding.md R112: a FRAME line assembles to the frame it names exactly when every value fits its field. -/
def Obligations.AssemblerRefusesWhatDoesNotFit : Prop :=
  ∀ (cdr : Int) (len ifc cec : Nat) (crc cut ovf : Bool),
    (expand (.frame cdr len ifc cec crc cut ovf) = none ↔
      cdr < -32768 ∨ 32767 < cdr ∨ 255 < len ∨ 65535 < ifc ∨ 65535 < cec)
    ∧ ∀ is, expand (.frame cdr len ifc cec crc cut ovf) = some is →
        ∃ rep, is = [.frame rep] ∧ rep.cdr.toInt = cdr ∧ rep.len.toNat = len ∧ rep.ifc.toNat = ifc ∧ rep.cec.toNat = cec
          ∧ rep.crc = crc ∧ rep.cut = cut ∧ rep.ovf = ovf

/-! ### Steps and turns -/

/-- A HOST step is `exec` of the decoded command, after its turn is taken off the list (00_scope.md R14; log 1). -/
def Obligations.HostStepRunsTheDecodedCommand : Prop :=
  ∀ (s : State) (w : CmdWord) (rest : List Turn) (i : Instr),
    s.turns = .host w :: rest → decode w = .ok i → step s = exec i { s with turns := rest }

/-- 00_scope.md R16, 20_memory.md R88: every HOST step goes on, with one response after the earlier ones.
No other turn responds. -/
def Obligations.EachCommandGetsOneResponse : Prop :=
  ∀ (s : State) (turn : Turn) (rest : List Turn), s.turns = turn :: rest →
    ∃ t, step s = .next t ∧ t.turns = rest
      ∧ ((∃ w, turn = .host w) → ∃ r : CmdWord, t.responses = s.responses ++ [r] ∧ r >>> 33 = 0)
      ∧ ((∀ w, turn ≠ .host w) → t.responses = s.responses)

/-- An ENGINE turn that is listed while the slot is empty changes nothing but the list (log 4).
When the listed order is used up, ENGINE has the turn, and with an empty slot the state stays (log 3).
Both are the model's conventions. -/
def Obligations.UsedUpOrderGivesEngineTheTurn : Prop :=
  ∀ s : State,
    (∀ rest, s.turns = .engine :: rest → s.block.pendValid = false → step s = .next { s with turns := rest })
      ∧ (s.turns = [] → step s = step { s with turns := [.engine] } ∧ (s.block.pendValid = false → step s = .next s))

/-- 60_exceptions.md R263: which error a command word reports, or none, from its bits alone. -/
def Obligations.FirstErrorInOrderIsReported : Prop :=
  ∀ (s : State) (w : CmdWord) (rest : List Turn), s.turns = .host w :: rest →
    ∃ t, step s = .next t ∧
      let op := w.toNat / 2 ^ 60
      let a : RegAddr := w.extractLsb' 32 8
      let d := w.toNat % 2 ^ 32
      let reserved : CmdWord :=
        if op = 1 then 0x0800000000000000 else if op = 2 then 0x0FFFFF00FFFFFFFF
        else if op = 3 then 0x0FFFFF0000000000 else 0x0FFFFFFFFFFFFFFF
      if 5 ≤ op then t.responses = s.responses ++ [0x0000000100000001]
      else if w &&& reserved ≠ 0 then t.responses = s.responses ++ [0x0000000100000002]
      else if (op = 2 ∨ op = 3) ∧ unmappedAddr a then t.responses = s.responses ++ [0x0000000100000003]
      else if op = 3 ∧ a ≠ 0x02 ∧ a ≠ 0x04 ∧ a ≠ 0x05 then t.responses = s.responses ++ [0x0000000100000004]
      else if op = 3 ∧ (a = 0x04 ∧ (d < 1 ∨ 255 < d) ∨ a = 0x05 ∧ 10 < d) then
        t.responses = s.responses ++ [0x0000000100000005]
      else ∃ data : RegWord, t.responses = s.responses ++ [0#32 ++ data]

/-- 60_exceptions.md R262: a command whose response says FAIL has written the error status and nothing else. -/
def Obligations.FailedCommandWritesOnlyTheErrorStatus : Prop :=
  ∀ (s t : State) (w r : CmdWord) (rest : List Turn),
    s.turns = .host w :: rest → step s = .next t → t.responses = s.responses ++ [r] → r.getLsbD 32 = true →
      ∃ c : ErrCause, c ≠ .none ∧ r = 0#31 ++ 1#1 ++ (causeCode c).setWidth 32
        ∧ t = { s with
            block := { s.block with err := true, errCause := c, errInfo := (w >>> 32).setWidth 32 }
            turns := rest
            responses := s.responses ++ [r] }

/-! ### Commands -/

/-- 45_control.md R250: NOP responds 0 and leaves the state; any other word of its opcode is `RESERVED_BITS`. -/
def Obligations.NopOnlyResponds : Prop :=
  (∀ s : State, exec .nop s = .next { s with responses := s.responses ++ [0] })
    ∧ ∀ w : CmdWord, w.toNat < 2 ^ 60 → decode w = if w = 0 then .ok .nop else .error .reservedBits

/-- 40_frame_intake.md R130: FRAME fills the slot, counts a report it overwrites, and changes nothing else.
A word of its opcode is refused exactly when bit 59 is set. -/
def Obligations.FrameFillsThePendingSlot : Prop :=
  (∀ (rep : FrameReport) (s : State), exec (.frame rep) s = .next { s with
      block := { s.block with
        pendReport := rep
        pendValid := true
        cntDrop := if s.block.pendValid = true then s.block.cntDrop + 1 else s.block.cntDrop }
      responses := s.responses ++ [0] })
    ∧ ∀ w : CmdWord, w.toNat / 2 ^ 60 = 1 →
        if w.getLsbD 59 = true then decode w = .error .reservedBits else ∃ rep, decode w = .ok (.frame rep)

/-- 44_register_access.md R221, the registers that hold one value: what a READ of each responds, zero-extended. -/
def Obligations.ReadReturnsThePlainRegisters : Prop :=
  ∀ s : State,
    let b := s.block
    let reads := fun (a : RegAddr) (data : RegWord) => exec (.read a) s = .next { s with responses := s.responses ++ [0#32 ++ data] }
    reads 0x00 0x46495232
      ∧ reads 0x03 b.errInfo
      ∧ reads 0x04 (BitVec.ofNat 32 b.updateRate.toNat)
      ∧ reads 0x05 (BitVec.ofNat 32 b.activeCh.toNat)
      ∧ reads 0x06 (BitVec.ofNat 32 b.cooldown.toNat)
      ∧ reads 0x09 (BitVec.ofNat 32 b.fine.toNat)
      ∧ reads 0x0A (BitVec.ofNat 32 b.coarse.toNat)
      ∧ reads 0x50 b.cntFrames ∧ reads 0x51 b.cntDrop ∧ reads 0x52 b.cntOvf ∧ reads 0x53 b.cntCut
      ∧ reads 0x54 b.cntCrc ∧ reads 0x55 b.cntZlen ∧ reads 0x56 b.cntIfsup

/-- 10_state.md R42, R43, R52: the packed words of `CFG`, `STATUS` and `LASTEV`, each field at its place and every other bit 0. -/
def Obligations.ReadReturnsThePackedRegisters : Prop :=
  ∀ s : State,
    let b := s.block
    let reads := fun (a : RegAddr) (data : RegWord) => exec (.read a) s = .next { s with responses := s.responses ++ [0#32 ++ data] }
    let bit := fun x : Bool => if x = true then 1 else 0
    let act := fun v : Verdict => match v with | .none => 0 | .inc => 1 | .dec => 2
    let cause := match b.errCause with
      | .none => 0 | .illegalOp => 1 | .reservedBits => 2 | .unmapped => 3 | .readOnly => 4 | .illegalValue => 5
    reads 0x01 (if Config.finePolicy = .clamp then 0x010B0B01 else 0x010B0B00)
      ∧ reads 0x02 (BitVec.ofNat 32 (16 * cause + 2 * bit b.err + bit b.pendValid))
      ∧ reads 0x0B (BitVec.ofNat 32
          (bit b.lastEv.ratePushed + 2 * bit b.lastEv.ifPushed + 4 * bit b.lastEv.eval + 8 * bit b.lastEv.discarded
            + 16 * act b.lastEv.fineAct + 64 * act b.lastEv.loAct + 256 * b.lastEv.ch.toNat
            + 4096 * bit b.lastEv.zlen + 8192 * bit b.lastEv.ifsup + 16384 * bit b.lastEv.cut))

/-- 10_state.md R53 to R56: the four banks, the codes sign-extended. -/
def Obligations.ReadReturnsTheBankedRegisters : Prop :=
  ∀ (s : State) (i : Fin 11),
    let b := s.block
    let reads := fun (a : RegAddr) (data : RegWord) => exec (.read a) s = .next { s with responses := s.responses ++ [0#32 ++ data] }
    reads (BitVec.ofNat 8 (0x10 + i.val)) b.rateHist[i]
      ∧ reads (BitVec.ofNat 8 (0x20 + i.val)) b.ifHist[i]
      ∧ reads (BitVec.ofNat 8 (0x30 + i.val)) (b.txCode[i].signExtend 32)
      ∧ reads (BitVec.ofNat 8 (0x40 + i.val)) (b.rxCode[i].signExtend 32)

/-- 42_fir_filter.md R173, R177: a READ of a filter output is the floor of the weighted sum, as a signed word, of the history at that READ. -/
def Obligations.ReadReturnsTheFilterOutput : Prop :=
  ∀ s : State,
    (∃ data : RegWord, exec (.read 0x07) s = .next { s with responses := s.responses ++ [0#32 ++ data] }
        ∧ 512 * data.toInt ≤ weightedSum s.block.rateHist ∧ weightedSum s.block.rateHist < 512 * data.toInt + 512)
      ∧ ∃ data : RegWord, exec (.read 0x08) s = .next { s with responses := s.responses ++ [0#32 ++ data] }
        ∧ 512 * data.toInt ≤ weightedSum s.block.ifHist ∧ weightedSum s.block.ifHist < 512 * data.toInt + 512

/-- 44_register_access.md R230: a READ of a mapped address changes no state of the block, and adds one ok response. -/
def Obligations.ReadHasNoSideEffect : Prop :=
  ∀ (a : RegAddr) (s : State), mappedAddr a →
    ∃ data : RegWord, exec (.read a) s = .next { s with responses := s.responses ++ [0#32 ++ data] }

/-- 44_register_access.md R228: a READ or a WRITE of an unmapped address raises `UNMAPPED`. -/
def Obligations.UnmappedAddressRaises : Prop :=
  ∀ (a : RegAddr) (d : RegWord) (s : State), unmappedAddr a →
    exec (.read a) s = .next { s with
        block := { s.block with err := true, errCause := .unmapped, errInfo := 0x200000#24 ++ a }
        responses := s.responses ++ [0x0000000100000003] }
      ∧ exec (.write a d) s = .next { s with
        block := { s.block with err := true, errCause := .unmapped, errInfo := 0x300000#24 ++ a }
        responses := s.responses ++ [0x0000000100000003] }

/-- 10_state.md R40, R64: the machine's register map has a register at exactly the addresses R40 lists, and none at exactly those R64 lists. -/
def Obligations.MapAndItsHolesPartitionTheSpace : Prop :=
  ∀ a : RegAddr, (regAt a = none ↔ unmappedAddr a) ∧ ((∃ r : Reg, regAt a = some r) ↔ mappedAddr a)

/-- 44_register_access.md R224: bit 1 of the data clears the error status; every other bit is ignored. -/
def Obligations.WriteStatusAcknowledges : Prop :=
  ∀ (d : RegWord) (s : State), exec (.write 0x02 d) s = .next { s with
    block := if d.getLsbD 1 = true then { s.block with err := false, errCause := .none, errInfo := 0 } else s.block
    responses := s.responses ++ [0] }

/-- 44_register_access.md R225: a legal value is written and clears `COOLDOWN`; an illegal one raises `ILLEGAL_VALUE` and writes nothing else. -/
def Obligations.WriteUpdateRateRestartsCooldown : Prop :=
  ∀ (d : RegWord) (s : State),
    (1 ≤ d.toNat → d.toNat ≤ 255 → exec (.write 0x04 d) s = .next { s with
        block := { s.block with updateRate := BitVec.ofNat 8 d.toNat, cooldown := 0 }
        responses := s.responses ++ [0] })
      ∧ (d.toNat = 0 ∨ 256 ≤ d.toNat → exec (.write 0x04 d) s = .next { s with
        block := { s.block with err := true, errCause := .illegalValue, errInfo := 0x30000004 }
        responses := s.responses ++ [0x0000000100000005] })

/-- 44_register_access.md R226: a legal channel is written and nothing else; an illegal one raises `ILLEGAL_VALUE`. -/
def Obligations.WriteActiveChannel : Prop :=
  ∀ (d : RegWord) (s : State),
    (d.toNat ≤ 10 → exec (.write 0x05 d) s = .next { s with
        block := { s.block with activeCh := BitVec.ofNat 4 d.toNat }
        responses := s.responses ++ [0] })
      ∧ (11 ≤ d.toNat → exec (.write 0x05 d) s = .next { s with
        block := { s.block with err := true, errCause := .illegalValue, errInfo := 0x30000005 }
        responses := s.responses ++ [0x0000000100000005] })

/-- 44_register_access.md R227: a WRITE of any other mapped address raises `READ_ONLY` and changes nothing else. -/
def Obligations.ReadOnlyRegistersRefuseWrites : Prop :=
  ∀ (a : RegAddr) (d : RegWord) (s : State), mappedAddr a → a ≠ 0x02 → a ≠ 0x04 → a ≠ 0x05 →
    exec (.write a d) s = .next { s with
      block := { s.block with err := true, errCause := .readOnly, errInfo := 0x300000#24 ++ a }
      responses := s.responses ++ [0x0000000100000004] }

/-- The frame of WRITE, for every address and datum: what it never changes, and what only a legal WRITE of its own address changes
(44_register_access.md R222 to R228). -/
def Obligations.WriteLeavesTheRestAlone : Prop :=
  ∀ (a : RegAddr) (d : RegWord) (s : State), ∃ t : State, exec (.write a d) s = .next t ∧ t.turns = s.turns
    ∧ (∃ r : CmdWord, t.responses = s.responses ++ [r])
    ∧ t.block = { s.block with
        err := t.block.err, errCause := t.block.errCause, errInfo := t.block.errInfo
        updateRate := t.block.updateRate, cooldown := t.block.cooldown, activeCh := t.block.activeCh }
    ∧ (a ≠ 0x04 → t.block.updateRate = s.block.updateRate ∧ t.block.cooldown = s.block.cooldown)
    ∧ (a ≠ 0x05 → t.block.activeCh = s.block.activeCh)

/-- 45_control.md R251: SRESET leaves the reset block and responds 0; any other word of its opcode is `RESERVED_BITS` and resets nothing. -/
def Obligations.SresetRestoresTheResetBlock : Prop :=
  (∀ s : State, exec .sreset s = .next { s with block := State.reset.block, responses := s.responses ++ [0] })
    ∧ (∀ w : CmdWord, w.toNat / 2 ^ 60 = 4 → decode w = if w = 0x4000000000000000 then .ok .sreset else .error .reservedBits)
    ∧ ∀ (s : State) (w : CmdWord) (rest : List Turn), s.turns = .host w :: rest → w.toNat / 2 ^ 60 = 4 → w ≠ 0x4000000000000000 →
        step s = .next { s with
          block := { s.block with err := true, errCause := .reservedBits, errInfo := (w >>> 32).setWidth 32 }
          turns := rest
          responses := s.responses ++ [0x0000000100000002] }

/-! ### Reset -/

/-- 70_reset_and_hazards.md R290: every element after reset. -/
def Obligations.ResetLoadsTheTable : Prop :=
  let b := State.reset.block
  (∀ i : Fin 11, b.rateHist[i] = 0 ∧ b.ifHist[i] = 500)
    ∧ b.cooldown = 0 ∧ b.updateRate = 15 ∧ b.fine = Config.factoryFine ∧ b.coarse = Config.factoryCoarse ∧ b.activeCh = 0
    ∧ b.txCode = Config.factoryTx ∧ b.rxCode = Config.factoryRx
    ∧ b.pendValid = false ∧ b.pendReport = ⟨false, false, false, 0, 0, 0, 0⟩
    ∧ b.err = false ∧ b.errCause = .none ∧ b.errInfo = 0 ∧ lastEvWord b.lastEv = 0
    ∧ b.cntFrames = 0 ∧ b.cntDrop = 0 ∧ b.cntOvf = 0 ∧ b.cntCut = 0 ∧ b.cntCrc = 0 ∧ b.cntZlen = 0 ∧ b.cntIfsup = 0

/-- 70_reset_and_hazards.md R291: the reset input has the effect of SRESET on the block and produces no response. -/
def Obligations.ResetInputIsSilentSreset : Prop :=
  ∀ (s : State) (rest : List Turn), s.turns = .rst :: rest →
    step s = .next { s with block := State.reset.block, turns := rest }
      ∧ step { s with turns := .host 0x4000000000000000 :: rest }
        = .next { s with block := State.reset.block, turns := rest, responses := s.responses ++ [0] }

/-! ### Estimator -/

/-- 41_estimator.md R151, with 00_scope.md R11: the rate sample is the quotient rounded toward zero.
The rounding of a negative quotient is the spec's general-knowledge reading (log 9). -/
def Obligations.RateSampleTruncatesTowardZero : Prop :=
  ∀ rep : FrameReport, rep.cut = false → rep.len ≠ 0 →
    let n := rep.cdr.toInt * 15625
    let d := (rep.len.toNat : Int) * 8
    let rate := (estimate rep).rate
    (estimate rep).rateValid = true
      ∧ (0 ≤ n → 0 ≤ rate ∧ d * rate ≤ n ∧ n < d * (rate + 1))
      ∧ (n ≤ 0 → rate ≤ 0 ∧ n ≤ d * rate ∧ d * (rate - 1) < n)

/-- 41_estimator.md R157: the range of the rate sample, with both extremes reached. -/
def Obligations.RateSampleRange : Prop :=
  (∀ rep : FrameReport, -64000000 ≤ (estimate rep).rate ∧ (estimate rep).rate ≤ 63998046)
    ∧ (∃ rep, (estimate rep).rate = -64000000) ∧ ∃ rep, (estimate rep).rate = 63998046

/-- 41_estimator.md R152 to R155: which samples a report gives and which guards fire; the rate sample does not depend on `cec`. -/
def Obligations.TrustPolicy : Prop :=
  ∀ rep : FrameReport,
    let e := estimate rep
    (rep.cut = true → e.rateValid = false ∧ e.ifValid = false ∧ e.zlen = false ∧ e.ifsup = false)
      ∧ (rep.cut = false → rep.len = 0 → e.rateValid = false ∧ e.ifValid = false ∧ e.zlen = true ∧ e.ifsup = false)
      ∧ (rep.cut = false → rep.len ≠ 0 → rep.cec.toNat < 25 →
          e.rateValid = true ∧ e.ifValid = true ∧ e.ifs = rep.ifc.toNat ∧ e.zlen = false ∧ e.ifsup = false)
      ∧ (rep.cut = false → rep.len ≠ 0 → 25 ≤ rep.cec.toNat →
          e.rateValid = true ∧ e.ifValid = false ∧ e.zlen = false ∧ e.ifsup = true)
      ∧ ∀ cec : BitVec 16, (estimate { rep with cec := cec }).rate = e.rate ∧ (estimate { rep with cec := cec }).rateValid = e.rateValid

/-! ### Filters -/

/-- 42_fir_filter.md R171: a push of any 32-bit sample. -/
def Obligations.PushShiftsTheHistory : Prop :=
  ∀ (h : History) (v : Int), -2147483648 ≤ v → v ≤ 2147483647 →
    (push h v)[0].toInt = v ∧ ∀ i : Fin 10, (push h v)[i.val + 1] = h[i.val]

/-- 42_fir_filter.md R174: the kernel is symmetric, so the output does not depend on which end is the newest. -/
def Obligations.FilterIsSymmetric : Prop :=
  (∀ i : Fin 11, kernel[i] = kernel[10 - i.val]) ∧ ∀ h : History, fir h.reverse = fir h

/-- 42_fir_filter.md R175: the output lies between the least and the greatest cell, and fits 32 bits. -/
def Obligations.FilterOutputLiesWithinTheCells : Prop :=
  (∀ (h : History) (lo hi : Int), (∀ i : Fin 11, lo ≤ h[i].toInt ∧ h[i].toInt ≤ hi) → lo ≤ fir h ∧ fir h ≤ hi)
    ∧ ∀ h : History, (BitVec.ofInt 32 (fir h)).toInt = fir h

/-- 42_fir_filter.md R176: the accumulator fits 41 bits, and the division is an arithmetic shift right by 9. -/
def Obligations.AccumulatorFitsFortyOneBits : Prop :=
  ∀ h : History, acc h = weightedSum h ∧ -2 ^ 40 ≤ acc h ∧ acc h ≤ 512 * (2 ^ 31 - 1)
    ∧ fir h = ((BitVec.ofInt 41 (acc h)).sshiftRight 9).toInt

/-! ### The ENGINE step -/

/-- 40_frame_intake.md R135 and R137: a report with `ovf` is discarded; only the slot, the flag counters and `LASTEV` change. -/
def Obligations.OverflowFrameIsDiscarded : Prop :=
  ∀ (s : State) (rest : List Turn), s.engineDue rest → s.block.pendReport.ovf = true →
    step s = .next { s with
      turns := rest
      block := { s.block with
        pendValid := false
        cntOvf := s.block.cntOvf + 1
        cntCut := if s.block.pendReport.cut = true then s.block.cntCut + 1 else s.block.cntCut
        cntCrc := if s.block.pendReport.crc = true then s.block.cntCrc + 1 else s.block.cntCrc
        lastEv := ⟨false, false, false, true, .none, .none, s.block.activeCh, false, false, false⟩ } }

/-- 40_frame_intake.md R134: the slot, the counters and the frame of a processed report; `COARSE`, the configuration and the error status stay. -/
def Obligations.ProcessedFrameIsCounted : Prop :=
  ∀ (s : State) (rest : List Turn), s.engineDue rest → s.block.pendReport.ovf = false →
    let b := s.block
    let rep := b.pendReport
    ∃ b' : Block, step s = .next { s with turns := rest, block := b' }
      ∧ b'.pendValid = false
      ∧ b'.cntFrames = b.cntFrames + 1
      ∧ b'.cntCut = (if rep.cut = true then b.cntCut + 1 else b.cntCut)
      ∧ b'.cntCrc = (if rep.crc = true then b.cntCrc + 1 else b.cntCrc)
      ∧ b'.cntZlen = (if rep.cut = false ∧ rep.len = 0 then b.cntZlen + 1 else b.cntZlen)
      ∧ b'.cntIfsup = (if rep.cut = false ∧ rep.len ≠ 0 ∧ 25 ≤ rep.cec.toNat then b.cntIfsup + 1 else b.cntIfsup)
      ∧ b'.cntOvf = b.cntOvf ∧ b'.cntDrop = b.cntDrop ∧ b'.pendReport = rep
      ∧ b'.updateRate = b.updateRate ∧ b'.activeCh = b.activeCh ∧ b'.coarse = b.coarse
      ∧ b'.err = b.err ∧ b'.errCause = b.errCause ∧ b'.errInfo = b.errInfo

/-- 40_frame_intake.md R134 with 41_estimator.md R151 to R155: what a processed report pushes into each history. -/
def Obligations.ProcessedFramePushesItsSamples : Prop :=
  ∀ (s : State) (rest : List Turn), s.engineDue rest → s.block.pendReport.ovf = false →
    let b := s.block
    let rep := b.pendReport
    ∃ b' : Block, step s = .next { s with turns := rest, block := b' }
      ∧ (if rep.cut = false ∧ rep.len ≠ 0 then
          b'.rateHist[0].toInt = Int.tdiv (rep.cdr.toInt * 15625) (rep.len.toNat * 8)
            ∧ ∀ i : Fin 10, b'.rateHist[i.val + 1] = b.rateHist[i.val]
        else b'.rateHist = b.rateHist)
      ∧ (if rep.cut = false ∧ rep.len ≠ 0 ∧ rep.cec.toNat < 25 then
          b'.ifHist[0].toInt = rep.ifc.toNat ∧ ∀ i : Fin 10, b'.ifHist[i.val + 1] = b.ifHist[i.val]
        else b'.ifHist = b.ifHist)

/-- 43_controller.md R190, R191, R195: the cooldown counts every processed frame and returns to 0 on the evaluation frame. -/
def Obligations.CooldownCountsProcessedFrames : Prop :=
  ∀ (s : State) (rest : List Turn), s.engineDue rest → s.block.pendReport.ovf = false → s.Inv →
    ∃ b' : Block, step s = .next { s with turns := rest, block := b' }
      ∧ b'.cooldown.toNat = (s.block.cooldown.toNat + 1) % s.block.updateRate.toNat
      ∧ (b'.lastEv.eval = true ↔ s.block.cooldown.toNat + 1 = s.block.updateRate.toNat)

/-- 43_controller.md R192, R196: on an evaluation frame the fine code follows the filtered rate, this frame's sample included, under either policy. -/
def Obligations.FineCodeFollowsTheFilteredRate : Prop :=
  ∀ (s : State) (rest : List Turn), s.engineDue rest → s.block.pendReport.ovf = false →
    s.block.cooldown.toNat + 1 = s.block.updateRate.toNat →
    ∃ b' : Block, step s = .next { s with turns := rest, block := b' }
      ∧ (1000 < fir b'.rateHist → b'.lastEv.fineAct = .inc
          ∧ b'.fine.toNat = (if s.block.fine.toNat < 31 then s.block.fine.toNat + 1
              else if Config.finePolicy = .wrap then 0 else 31))
      ∧ (fir b'.rateHist < -1000 → b'.lastEv.fineAct = .dec
          ∧ b'.fine.toNat = (if 0 < s.block.fine.toNat then s.block.fine.toNat - 1
              else if Config.finePolicy = .wrap then 31 else 0))
      ∧ (-1000 ≤ fir b'.rateHist → fir b'.rateHist ≤ 1000 → b'.lastEv.fineAct = .none ∧ b'.fine = s.block.fine)

/-- 43_controller.md R193, R197, R198: on an evaluation frame the active channel's codes follow the filtered IF, both by the same wrapping step;
no other channel's code changes. -/
def Obligations.LoCodesFollowTheFilteredIf : Prop :=
  ∀ (s : State) (rest : List Turn), s.engineDue rest → s.block.pendReport.ovf = false →
    s.block.cooldown.toNat + 1 = s.block.updateRate.toNat →
    ∃ b' : Block, step s = .next { s with turns := rest, block := b' }
      ∧ (520 < fir b'.ifHist → b'.lastEv.loAct = .inc ∧ ∀ c : Fin 11, c.val = s.block.activeCh.toNat →
          b'.txCode[c] = s.block.txCode[c] + 1 ∧ b'.rxCode[c] = s.block.rxCode[c] + 1)
      ∧ (fir b'.ifHist < 480 → b'.lastEv.loAct = .dec ∧ ∀ c : Fin 11, c.val = s.block.activeCh.toNat →
          b'.txCode[c] = s.block.txCode[c] - 1 ∧ b'.rxCode[c] = s.block.rxCode[c] - 1)
      ∧ (480 ≤ fir b'.ifHist → fir b'.ifHist ≤ 520 →
          b'.lastEv.loAct = .none ∧ b'.txCode = s.block.txCode ∧ b'.rxCode = s.block.rxCode)
      ∧ ∀ c : Fin 11, c.val ≠ s.block.activeCh.toNat →
          b'.txCode[c] = s.block.txCode[c] ∧ b'.rxCode[c] = s.block.rxCode[c]

/-- 43_controller.md R204: a processed frame that is no evaluation frame gives no verdict and changes no code. -/
def Obligations.NoCodeChangesBetweenEvaluations : Prop :=
  ∀ (s : State) (rest : List Turn), s.engineDue rest → s.block.pendReport.ovf = false →
    s.block.cooldown.toNat + 1 ≠ s.block.updateRate.toNat →
    ∃ b' : Block, step s = .next { s with turns := rest, block := b' }
      ∧ b'.fine = s.block.fine ∧ b'.txCode = s.block.txCode ∧ b'.rxCode = s.block.rxCode
      ∧ b'.lastEv.eval = false ∧ b'.lastEv.fineAct = .none ∧ b'.lastEv.loAct = .none

/-- 10_state.md R52 with 40_frame_intake.md R134: the fields of `LASTEV` that are not the controller's, after a processed frame. -/
def Obligations.LastEventRecordsTheFrame : Prop :=
  ∀ (s : State) (rest : List Turn), s.engineDue rest → s.block.pendReport.ovf = false →
    let rep := s.block.pendReport
    ∃ b' : Block, step s = .next { s with turns := rest, block := b' }
      ∧ b'.lastEv.ratePushed = decide (rep.cut = false ∧ rep.len ≠ 0)
      ∧ b'.lastEv.ifPushed = decide (rep.cut = false ∧ rep.len ≠ 0 ∧ rep.cec.toNat < 25)
      ∧ b'.lastEv.discarded = false ∧ b'.lastEv.ch = s.block.activeCh
      ∧ b'.lastEv.zlen = decide (rep.cut = false ∧ rep.len = 0)
      ∧ b'.lastEv.ifsup = decide (rep.cut = false ∧ rep.len ≠ 0 ∧ 25 ≤ rep.cec.toNat)
      ∧ b'.lastEv.cut = rep.cut

/-- 40_frame_intake.md R136: two blocks whose pending reports differ in `crc` alone step to blocks that differ in `CNT_CRC` and that flag alone. -/
def Obligations.CrcChangesOnlyItsCounter : Prop :=
  ∀ (s : State) (rest : List Turn) (crc : Bool), s.engineDue rest →
    ∃ b' : Block, step s = .next { s with turns := rest, block := b' }
      ∧ step { s with block := { s.block with pendReport := { s.block.pendReport with crc := crc } } }
        = .next { s with
            turns := rest
            block := { b' with
              pendReport := { s.block.pendReport with crc := crc }
              cntCrc := if crc = true then s.block.cntCrc + 1 else s.block.cntCrc } }

/-! ### Rules of the whole machine -/

/-- 10_state.md R66: the state after reset meets the invariants. -/
def Obligations.ResetMeetsTheInvariants : Prop := State.reset.Inv

/-- 10_state.md R66: every step from a state that meets the invariants leaves a state that meets them. -/
def Obligations.EveryStepKeepsTheInvariants : Prop :=
  ∀ s t : State, s.Inv → step s = .next t → t.Inv

/-- 10_state.md R33: a history changes only by a push and by reset. -/
def Obligations.HistoriesChangeOnlyByPushOrReset : Prop :=
  ∀ s t : State, step s = .next t →
    (t.block.rateHist = s.block.rateHist ∧ t.block.ifHist = s.block.ifHist)
      ∨ (s.resetNext ∧ t.block = State.reset.block)
      ∨ (s.engineNext
        ∧ (t.block.rateHist = s.block.rateHist ∨ ∃ v : Int, t.block.rateHist = push s.block.rateHist v)
        ∧ (t.block.ifHist = s.block.ifHist ∨ ∃ v : Int, t.block.ifHist = push s.block.ifHist v))

/-- 43_controller.md R191, R199, R200: a code changes only in an ENGINE step on an evaluation frame, or by reset; `COARSE` only by reset. -/
def Obligations.CodesChangeOnlyOnEvaluationOrReset : Prop :=
  ∀ s t : State, step s = .next t →
    (s.resetNext ∧ t.block = State.reset.block)
      ∨ (t.block.coarse = s.block.coarse
        ∧ ((t.block.fine = s.block.fine ∧ t.block.txCode = s.block.txCode ∧ t.block.rxCode = s.block.rxCode)
          ∨ (s.engineNext ∧ s.block.pendReport.ovf = false
            ∧ s.block.cooldown.toNat + 1 = s.block.updateRate.toNat)))

/-- 10_state.md R38: only a command error sets the error status, and only the acknowledging WRITE and reset clear it. -/
def Obligations.ErrorStatusChangesOnlyByItsRules : Prop :=
  ∀ s t : State, step s = .next t →
    (t.block.err = s.block.err ∧ t.block.errCause = s.block.errCause ∧ t.block.errInfo = s.block.errInfo)
      ∨ (∃ (w : CmdWord) (rest : List Turn) (c : ErrCause), s.turns = .host w :: rest ∧ c ≠ .none
          ∧ t.block = { s.block with err := true, errCause := c, errInfo := (w >>> 32).setWidth 32 })
      ∨ (∃ (d : RegWord) (rest : List Turn), s.turns = .host (0x30000002#32 ++ d) :: rest ∧ d.getLsbD 1 = true
          ∧ t.block = { s.block with err := false, errCause := .none, errInfo := 0 })
      ∨ (s.resetNext ∧ t.block = State.reset.block)

/-- 10_state.md R39: each diagnostic counter stays or goes up by one, modulo 2^32, and only reset clears it. -/
def Obligations.CountersCountByOne : Prop :=
  ∀ s t : State, step s = .next t →
    (s.resetNext ∧ t.block = State.reset.block)
      ∨ ∀ counter ∈ [Block.cntFrames, Block.cntDrop, Block.cntOvf, Block.cntCut, Block.cntCrc, Block.cntZlen, Block.cntIfsup],
          counter t.block = counter s.block ∨ counter t.block = counter s.block + 1

/-- 60_exceptions.md R264: a step runs the same whatever the error status is.
The two runs end alike but for the error status, and respond alike unless the command is a READ of `STATUS` or `ERRINFO`. -/
def Obligations.ErrorStatusBlocksNothing : Prop :=
  ∀ (s t : State) (e : Bool) (c : ErrCause) (info : RegWord), step s = .next t →
    ∃ t' : State, step { s with block := { s.block with err := e, errCause := c, errInfo := info } } = .next t'
      ∧ t'.turns = t.turns
      ∧ t'.block = { t.block with err := t'.block.err, errCause := t'.block.errCause, errInfo := t'.block.errInfo }
      ∧ ((∀ rest, s.turns ≠ .host 0x2000000200000000 :: rest) → (∀ rest, s.turns ≠ .host 0x2000000300000000 :: rest) →
          t'.responses = t.responses)

/-- 70_reset_and_hazards.md R296 with 20_memory.md R89: a READ and an ENGINE step in either order leave the same block,
and the READ responds the same in both orders when its register is one the ENGINE step does not write. -/
def Obligations.ReadAndEngineCommuteOnTheBlock : Prop :=
  ∀ (s : State) (a : RegAddr) (rest : List Turn), mappedAddr a →
    ∃ t u : State,
      Host.Core.run Sys2Proof.core 2 { s with turns := .host (0x200000#24 ++ a ++ 0#32) :: .engine :: rest } = .next t
        ∧ Host.Core.run Sys2Proof.core 2 { s with turns := .engine :: .host (0x200000#24 ++ a ++ 0#32) :: rest } = .next u
        ∧ t.block = u.block ∧ t.turns = rest ∧ u.turns = rest
        ∧ (a ∈ [0x00, 0x01, 0x03, 0x04, 0x05, 0x0A, 0x51] → t.responses = u.responses)

/-- 70_reset_and_hazards.md R294: legal WRITEs of `UPDATE_RATE` and `ACTIVE_CH` in either order lead to the same state. -/
def Obligations.ConfigurationWritesCommute : Prop :=
  ∀ (s : State) (n c : RegWord) (rest : List Turn), 1 ≤ n.toNat → n.toNat ≤ 255 → c.toNat ≤ 10 →
    ∃ t : State,
      Host.Core.run Sys2Proof.core 2 { s with turns := .host (0x30000004#32 ++ n) :: .host (0x30000005#32 ++ c) :: rest } = .next t
        ∧ Host.Core.run Sys2Proof.core 2 { s with turns := .host (0x30000005#32 ++ c) :: .host (0x30000004#32 ++ n) :: rest } = .next t
        ∧ t.block = { s.block with updateRate := BitVec.ofNat 8 n.toNat, cooldown := 0, activeCh := BitVec.ofNat 4 c.toNat }

/-- 20_memory.md R90: the response to a poll of `STATUS` has bit 0 clear exactly when no report is pending. -/
def Obligations.PollSeesThePendingSlot : Prop :=
  ∀ s : State, ∃ t r, exec (.read 0x02) s = .next t ∧ t.responses = s.responses ++ [r]
    ∧ (pollAgain r = false ↔ s.block.pendValid = false) ∧ t.block = s.block

/-- 70_reset_and_hazards.md R302 with 00_scope.md R14: whatever the order of steps, the run ends with no command left and the slot empty,
and nothing changes after that.
That ENGINE takes the turn when the listed order is used up is the model's form of weak fairness (log 3), and that every listed turn belongs to the run is its choice (log 18). -/
def Obligations.EveryRunEndsWithTheSlotEmpty : Prop :=
  ∀ s : State, ∃ t : State, Host.Core.run Sys2Proof.core (s.turns.length + 1) s = .next t ∧ t.runEnded
    ∧ ∀ k : Nat, Host.Core.run Sys2Proof.core k t = .next t

/-- 43_controller.md R190, R191, R195 over any run of frames, each consumed before the next: the cooldown is the count of frames modulo `UPDATE_RATE`,
so that an evaluation falls on every `UPDATE_RATE`-th processed frame, whatever the frames hold. -/
def Obligations.CooldownIsTheFrameCountModuloTheRate : Prop :=
  ∀ (reports : List FrameReport) (s : State), s.Inv → s.block.pendValid = false → (∀ rep ∈ reports, rep.ovf = false) →
    s.turns = reports.flatMap (fun rep => [.host (encode (.frame rep)), .engine]) →
    ∃ t : State, Host.Core.run Sys2Proof.core (2 * reports.length) s = .next t
      ∧ t.turns = [] ∧ t.block.updateRate = s.block.updateRate ∧ t.block.cntDrop = s.block.cntDrop
      ∧ t.block.cooldown.toNat = (s.block.cooldown.toNat + reports.length) % s.block.updateRate.toNat
      ∧ t.block.cntFrames = s.block.cntFrames + BitVec.ofNat 32 reports.length
end

