-- ==== Sys2Proof/Laws/Codec.lean ====
section
/-! SUPPORT. The fields of a command word as numbers, the reserved bits as fields, and what the decoder answers for each opcode. -/

open Sys2Proof
namespace Sys2Proof.Machine

theorem toNat_join {m n : Nat} (x : BitVec m) (y : BitVec n) : (x ++ y).toNat = x.toNat * 2 ^ n + y.toNat := by
  rw [BitVec.toNat_append, Nat.shiftLeft_eq, Nat.mul_comm, Nat.two_pow_add_eq_or_of_lt y.isLt]
theorem toNat_field {n : Nat} (s l : Nat) (x : BitVec n) : (x.extractLsb' s l).toNat = x.toNat / 2 ^ s % 2 ^ l := by
  rw [BitVec.extractLsb'_toNat, Nat.shiftRight_eq_div_pow]
theorem toNat_bit (b : Bool) : (BitVec.ofBool b).toNat = b.toNat := by cases b <;> rfl
theorem bit_eq {n : Nat} (x : BitVec n) (i : Nat) : x.getLsbD i = decide (x.toNat / 2 ^ i % 2 = 1) := by
  rw [BitVec.getLsbD, Nat.testBit_eq_decide_div_mod_eq]

theorem bit_toNat {n : Nat} (x : BitVec n) (i : Nat) : (x.getLsbD i).toNat = x.toNat / 2 ^ i % 2 := by
  rw [bit_eq]
  have : x.toNat / 2 ^ i % 2 < 2 := Nat.mod_lt _ (by decide)
  by_cases h : x.toNat / 2 ^ i % 2 = 1
  · simp [h]
  · simp [h]; omega

theorem encodeReport_toNat (r : FrameReport) : (encodeReport r).toNat =
    2 ^ 60 + r.ovf.toNat * 2 ^ 58 + r.cut.toNat * 2 ^ 57 + r.crc.toNat * 2 ^ 56 + r.len.toNat * 2 ^ 48
      + r.cdr.toNat * 2 ^ 32 + r.ifc.toNat * 2 ^ 16 + r.cec.toNat := by
  unfold encodeReport
  simp only [toNat_join, toNat_bit, BitVec.toNat_ofNat]
  omega

theorem reportField_encodeReport (r : FrameReport) : reportField (encodeReport r) = r := by
  have h := encodeReport_toNat r
  have h1 := r.len.isLt
  have h2 := r.cdr.isLt
  have h3 := r.ifc.isLt
  have h4 := r.cec.isLt
  rcases r with ⟨ovf, cut, crc, len, cdr, ifc, cec⟩
  have o := ovf.toNat_lt
  have c := cut.toNat_lt
  have k := crc.toNat_lt
  simp only at *
  simp only [reportField, FrameReport.mk.injEq]
  refine ⟨?_, ?_, ?_, ?_, ?_, ?_, ?_⟩
  case refine_1 => rw [bit_eq, h]; cases ovf <;> simp at * <;> omega
  case refine_2 => rw [bit_eq, h]; cases cut <;> simp at * <;> omega
  case refine_3 => rw [bit_eq, h]; cases crc <;> simp at * <;> omega
  all_goals apply BitVec.eq_of_toNat_eq; rw [toNat_field, h]; omega

theorem split_access (w : CmdWord) : w = opField w ++ w.extractLsb' 40 20 ++ addrField w ++ dataField w := by
  apply BitVec.eq_of_toNat_eq
  simp only [toNat_join, toNat_field, opField, addrField, dataField]
  have := w.isLt
  omega
theorem split_frame (w : CmdWord) : w = opField w ++ w.extractLsb' 59 1 ++ w.extractLsb' 0 59 := by
  apply BitVec.eq_of_toNat_eq
  simp only [toNat_join, toNat_field, opField]
  have := w.isLt
  omega
theorem split_control (w : CmdWord) : w = opField w ++ w.extractLsb' 0 60 := by
  apply BitVec.eq_of_toNat_eq
  simp only [toNat_join, toNat_field, opField]
  have := w.isLt
  omega

theorem join_eq_zero {m n : Nat} (x : BitVec m) (y : BitVec n) : x ++ y = 0#(m+n) ↔ x = 0#m ∧ y = 0#n := by
  constructor
  · intro h
    have := congrArg BitVec.toNat h
    rw [toNat_join] at this
    simp at this
    constructor <;> apply BitVec.eq_of_toNat_eq
    · simpa using this.1
    · simpa using this.2
  · rintro ⟨rfl, rfl⟩; simp

theorem reserved_control (w : CmdWord) : w &&& 0x0FFFFFFFFFFFFFFF = 0 ↔ w.extractLsb' 0 60 = 0 := by
  conv_lhs => rw [split_control w, show (0x0FFFFFFFFFFFFFFF : CmdWord) = 0#4 ++ BitVec.allOnes 60 from rfl, BitVec.and_append]
  rw [show (0:CmdWord) = 0#(4+60) from rfl, join_eq_zero]
  simp [-BitVec.reduceAllOnes]
theorem reserved_frame (w : CmdWord) : w &&& 0x0800000000000000 = 0 ↔ w.getLsbD 59 = false := by
  conv_lhs => rw [split_frame w, show (0x0800000000000000 : CmdWord) = 0#4 ++ BitVec.allOnes 1 ++ 0#59 from rfl, BitVec.and_append, BitVec.and_append]
  rw [show (0:CmdWord) = 0#(4+1+59) from rfl, join_eq_zero, join_eq_zero]
  simp only [BitVec.and_zero, BitVec.and_allOnes, true_and, and_true]
  rw [← BitVec.toNat_inj, toNat_field, bit_eq]
  simp
theorem reserved_read (w : CmdWord) : w &&& 0x0FFFFF00FFFFFFFF = 0 ↔ w.extractLsb' 40 20 = 0 ∧ dataField w = 0 := by
  conv_lhs => rw [split_access w, show (0x0FFFFF00FFFFFFFF : CmdWord) = 0#4 ++ BitVec.allOnes 20 ++ 0#8 ++ BitVec.allOnes 32 from rfl, BitVec.and_append, BitVec.and_append, BitVec.and_append]
  rw [show (0:CmdWord) = 0#(4+20+8+32) from rfl, join_eq_zero, join_eq_zero, join_eq_zero]
  simp [-BitVec.reduceAllOnes]
theorem reserved_write (w : CmdWord) : w &&& 0x0FFFFF0000000000 = 0 ↔ w.extractLsb' 40 20 = 0 := by
  conv_lhs => rw [split_access w, show (0x0FFFFF0000000000 : CmdWord) = 0#4 ++ BitVec.allOnes 20 ++ 0#8 ++ 0#32 from rfl, BitVec.and_append, BitVec.and_append, BitVec.and_append]
  rw [show (0:CmdWord) = 0#(4+20+8+32) from rfl, join_eq_zero, join_eq_zero, join_eq_zero]
  simp [-BitVec.reduceAllOnes]

theorem opField_toNat (w : CmdWord) : (opField w).toNat = w.toNat / 2 ^ 60 := by
  rw [opField, toNat_field]; have := w.isLt; omega


theorem decode_cases (w : CmdWord) :
    (opField w = 0 ∧ decode w = if w.extractLsb' 0 60 = 0 then .ok .nop else .error .reservedBits)
      ∨ (opField w = 1 ∧ decode w = if w.getLsbD 59 = false then .ok (.frame (reportField w)) else .error .reservedBits)
      ∨ (opField w = 2 ∧ decode w = if w.extractLsb' 40 20 = 0 ∧ dataField w = 0 then .ok (.read (addrField w))
          else .error .reservedBits)
      ∨ (opField w = 3 ∧ decode w = if w.extractLsb' 40 20 = 0 then .ok (.write (addrField w) (dataField w))
          else .error .reservedBits)
      ∨ (opField w = 4 ∧ decode w = if w.extractLsb' 0 60 = 0 then .ok .sreset else .error .reservedBits)
      ∨ (5 ≤ (opField w).toNat ∧ decode w = .error .illegalOp) := by
  have ops : opField w = 0 ∨ opField w = 1 ∨ opField w = 2 ∨ opField w = 3 ∨ opField w = 4 ∨ 5 ≤ (opField w).toNat := by
    simp only [← BitVec.toNat_inj]; simp; omega
  rcases ops with e | e | e | e | e | e
  · left; refine ⟨e, ?_⟩; simp only [← reserved_control]; simp [decode, e, reservedMask]
  · right; left; refine ⟨e, ?_⟩; simp only [← reserved_frame]; simp [decode, e, reservedMask]
  · right; right; left; refine ⟨e, ?_⟩; simp only [← reserved_read]; simp [decode, e, reservedMask]
  · right; right; right; left; refine ⟨e, ?_⟩; simp only [← reserved_write]; simp [decode, e, reservedMask]
  · right; right; right; right; left; refine ⟨e, ?_⟩; simp only [← reserved_control]; simp [decode, e, reservedMask]
  · right; right; right; right; right; exact ⟨e, by simp [decode, e]⟩

/-- The data of a response is what was responded. -/
@[simp] theorem responseData_responseWord (ok : Bool) (data : RegWord) : responseData (responseWord ok data) = data := by
  apply BitVec.eq_of_toNat_eq
  rw [responseData, toNat_field, responseWord, toNat_join]
  have := data.isLt
  omega

/-- The bytes of a response's data are those of what was responded. -/
@[simp] theorem responseBytes_responseWord (ok : Bool) (data : RegWord) :
    responseBytes (responseWord ok data) = bytesOfData data := by
  rw [responseBytes, responseData_responseWord]

theorem encodeRead_toNat (a : RegAddr) : (encode (.read a)).toNat = 2 ^ 61 + a.toNat * 2 ^ 32 := by
  unfold encode
  simp only [toNat_join, BitVec.toNat_ofNat]
  omega

theorem encodeWrite_toNat (a : RegAddr) (d : RegWord) :
    (encode (.write a d)).toNat = 3 * 2 ^ 60 + a.toNat * 2 ^ 32 + d.toNat := by
  unfold encode
  simp only [toNat_join, BitVec.toNat_ofNat]
  omega

/-- `ERRINFO` of an error of READ is the opcode and the address. -/
theorem encodeRead_high (a : RegAddr) : (encode (.read a)).extractLsb' 32 32 = 0x200000#24 ++ a := by
  apply BitVec.eq_of_toNat_eq
  rw [toNat_field, encodeRead_toNat, toNat_join, BitVec.toNat_ofNat]
  have := a.isLt
  omega

/-- `ERRINFO` of an error of WRITE is the opcode and the address. -/
theorem encodeWrite_high (a : RegAddr) (d : RegWord) : (encode (.write a d)).extractLsb' 32 32 = 0x300000#24 ++ a := by
  apply BitVec.eq_of_toNat_eq
  rw [toNat_field, encodeWrite_toNat, toNat_join, BitVec.toNat_ofNat]
  have := a.isLt
  have := d.isLt
  omega

end Sys2Proof.Machine
end

