-- ==== Sys2Proof/Laws/State.lean ====
section
/-! SUPPORT. One lemma per field per update of the state, each true by rfl, so that no later proof unfolds a record update. -/

namespace Sys2Proof.Machine

@[simp] theorem respond_block (ok : Bool) (d : RegWord) (s : State) : (respond ok d s).block = s.block := rfl
@[simp] theorem respond_turns (ok : Bool) (d : RegWord) (s : State) : (respond ok d s).turns = s.turns := rfl
@[simp] theorem respond_responses (ok : Bool) (d : RegWord) (s : State) :
    (respond ok d s).responses = s.responses ++ [responseWord ok d] := rfl
@[simp] theorem raiseCmdError_block (c : ErrCause) (w : CmdWord) (s : State) :
    (raiseCmdError c w s).block = recordError c w s.block := rfl
@[simp] theorem raiseCmdError_turns (c : ErrCause) (w : CmdWord) (s : State) : (raiseCmdError c w s).turns = s.turns := rfl
@[simp] theorem raiseCmdError_responses (c : ErrCause) (w : CmdWord) (s : State) :
    (raiseCmdError c w s).responses = s.responses ++ [responseWord false ((causeCode c).setWidth 32)] := rfl
@[simp] theorem resetState_block (s : State) : (resetState s).block = Block.reset := rfl
@[simp] theorem resetState_turns (s : State) : (resetState s).turns = s.turns := rfl
@[simp] theorem resetState_responses (s : State) : (resetState s).responses = s.responses := rfl

@[simp] theorem recordError_rateHist (c : ErrCause) (w : CmdWord) (b : Block) : (recordError c w b).rateHist = b.rateHist := rfl
@[simp] theorem recordError_ifHist (c : ErrCause) (w : CmdWord) (b : Block) : (recordError c w b).ifHist = b.ifHist := rfl
@[simp] theorem recordError_cooldown (c : ErrCause) (w : CmdWord) (b : Block) : (recordError c w b).cooldown = b.cooldown := rfl
@[simp] theorem recordError_updateRate (c : ErrCause) (w : CmdWord) (b : Block) : (recordError c w b).updateRate = b.updateRate := rfl
@[simp] theorem recordError_fine (c : ErrCause) (w : CmdWord) (b : Block) : (recordError c w b).fine = b.fine := rfl
@[simp] theorem recordError_coarse (c : ErrCause) (w : CmdWord) (b : Block) : (recordError c w b).coarse = b.coarse := rfl
@[simp] theorem recordError_activeCh (c : ErrCause) (w : CmdWord) (b : Block) : (recordError c w b).activeCh = b.activeCh := rfl
@[simp] theorem recordError_txCode (c : ErrCause) (w : CmdWord) (b : Block) : (recordError c w b).txCode = b.txCode := rfl
@[simp] theorem recordError_rxCode (c : ErrCause) (w : CmdWord) (b : Block) : (recordError c w b).rxCode = b.rxCode := rfl
@[simp] theorem recordError_pendValid (c : ErrCause) (w : CmdWord) (b : Block) : (recordError c w b).pendValid = b.pendValid := rfl
@[simp] theorem recordError_pendReport (c : ErrCause) (w : CmdWord) (b : Block) : (recordError c w b).pendReport = b.pendReport := rfl
@[simp] theorem recordError_err (c : ErrCause) (w : CmdWord) (b : Block) : (recordError c w b).err = true := rfl
@[simp] theorem recordError_errCause (c : ErrCause) (w : CmdWord) (b : Block) : (recordError c w b).errCause = c := rfl
@[simp] theorem recordError_errInfo (c : ErrCause) (w : CmdWord) (b : Block) : (recordError c w b).errInfo = w.extractLsb' 32 32 := rfl
@[simp] theorem recordError_lastEv (c : ErrCause) (w : CmdWord) (b : Block) : (recordError c w b).lastEv = b.lastEv := rfl
@[simp] theorem recordError_cntFrames (c : ErrCause) (w : CmdWord) (b : Block) : (recordError c w b).cntFrames = b.cntFrames := rfl
@[simp] theorem recordError_cntDrop (c : ErrCause) (w : CmdWord) (b : Block) : (recordError c w b).cntDrop = b.cntDrop := rfl
@[simp] theorem recordError_cntOvf (c : ErrCause) (w : CmdWord) (b : Block) : (recordError c w b).cntOvf = b.cntOvf := rfl
@[simp] theorem recordError_cntCut (c : ErrCause) (w : CmdWord) (b : Block) : (recordError c w b).cntCut = b.cntCut := rfl
@[simp] theorem recordError_cntCrc (c : ErrCause) (w : CmdWord) (b : Block) : (recordError c w b).cntCrc = b.cntCrc := rfl
@[simp] theorem recordError_cntZlen (c : ErrCause) (w : CmdWord) (b : Block) : (recordError c w b).cntZlen = b.cntZlen := rfl
@[simp] theorem recordError_cntIfsup (c : ErrCause) (w : CmdWord) (b : Block) : (recordError c w b).cntIfsup = b.cntIfsup := rfl

@[simp] theorem clearError_rateHist (b : Block) : (clearError b).rateHist = b.rateHist := rfl
@[simp] theorem clearError_ifHist (b : Block) : (clearError b).ifHist = b.ifHist := rfl
@[simp] theorem clearError_cooldown (b : Block) : (clearError b).cooldown = b.cooldown := rfl
@[simp] theorem clearError_updateRate (b : Block) : (clearError b).updateRate = b.updateRate := rfl
@[simp] theorem clearError_fine (b : Block) : (clearError b).fine = b.fine := rfl
@[simp] theorem clearError_coarse (b : Block) : (clearError b).coarse = b.coarse := rfl
@[simp] theorem clearError_activeCh (b : Block) : (clearError b).activeCh = b.activeCh := rfl
@[simp] theorem clearError_txCode (b : Block) : (clearError b).txCode = b.txCode := rfl
@[simp] theorem clearError_rxCode (b : Block) : (clearError b).rxCode = b.rxCode := rfl
@[simp] theorem clearError_pendValid (b : Block) : (clearError b).pendValid = b.pendValid := rfl
@[simp] theorem clearError_pendReport (b : Block) : (clearError b).pendReport = b.pendReport := rfl
@[simp] theorem clearError_err (b : Block) : (clearError b).err = false := rfl
@[simp] theorem clearError_errCause (b : Block) : (clearError b).errCause = .none := rfl
@[simp] theorem clearError_errInfo (b : Block) : (clearError b).errInfo = 0 := rfl
@[simp] theorem clearError_lastEv (b : Block) : (clearError b).lastEv = b.lastEv := rfl
@[simp] theorem clearError_cntFrames (b : Block) : (clearError b).cntFrames = b.cntFrames := rfl
@[simp] theorem clearError_cntDrop (b : Block) : (clearError b).cntDrop = b.cntDrop := rfl
@[simp] theorem clearError_cntOvf (b : Block) : (clearError b).cntOvf = b.cntOvf := rfl
@[simp] theorem clearError_cntCut (b : Block) : (clearError b).cntCut = b.cntCut := rfl
@[simp] theorem clearError_cntCrc (b : Block) : (clearError b).cntCrc = b.cntCrc := rfl
@[simp] theorem clearError_cntZlen (b : Block) : (clearError b).cntZlen = b.cntZlen := rfl
@[simp] theorem clearError_cntIfsup (b : Block) : (clearError b).cntIfsup = b.cntIfsup := rfl

@[simp] theorem acceptReport_rateHist (rep : FrameReport) (b : Block) : (acceptReport rep b).rateHist = b.rateHist := rfl
@[simp] theorem acceptReport_ifHist (rep : FrameReport) (b : Block) : (acceptReport rep b).ifHist = b.ifHist := rfl
@[simp] theorem acceptReport_cooldown (rep : FrameReport) (b : Block) : (acceptReport rep b).cooldown = b.cooldown := rfl
@[simp] theorem acceptReport_updateRate (rep : FrameReport) (b : Block) : (acceptReport rep b).updateRate = b.updateRate := rfl
@[simp] theorem acceptReport_fine (rep : FrameReport) (b : Block) : (acceptReport rep b).fine = b.fine := rfl
@[simp] theorem acceptReport_coarse (rep : FrameReport) (b : Block) : (acceptReport rep b).coarse = b.coarse := rfl
@[simp] theorem acceptReport_activeCh (rep : FrameReport) (b : Block) : (acceptReport rep b).activeCh = b.activeCh := rfl
@[simp] theorem acceptReport_txCode (rep : FrameReport) (b : Block) : (acceptReport rep b).txCode = b.txCode := rfl
@[simp] theorem acceptReport_rxCode (rep : FrameReport) (b : Block) : (acceptReport rep b).rxCode = b.rxCode := rfl
@[simp] theorem acceptReport_pendValid (rep : FrameReport) (b : Block) : (acceptReport rep b).pendValid = true := rfl
@[simp] theorem acceptReport_pendReport (rep : FrameReport) (b : Block) : (acceptReport rep b).pendReport = rep := rfl
@[simp] theorem acceptReport_err (rep : FrameReport) (b : Block) : (acceptReport rep b).err = b.err := rfl
@[simp] theorem acceptReport_errCause (rep : FrameReport) (b : Block) : (acceptReport rep b).errCause = b.errCause := rfl
@[simp] theorem acceptReport_errInfo (rep : FrameReport) (b : Block) : (acceptReport rep b).errInfo = b.errInfo := rfl
@[simp] theorem acceptReport_lastEv (rep : FrameReport) (b : Block) : (acceptReport rep b).lastEv = b.lastEv := rfl
@[simp] theorem acceptReport_cntFrames (rep : FrameReport) (b : Block) : (acceptReport rep b).cntFrames = b.cntFrames := rfl
@[simp] theorem acceptReport_cntDrop (rep : FrameReport) (b : Block) : (acceptReport rep b).cntDrop = countIf b.pendValid b.cntDrop := rfl
@[simp] theorem acceptReport_cntOvf (rep : FrameReport) (b : Block) : (acceptReport rep b).cntOvf = b.cntOvf := rfl
@[simp] theorem acceptReport_cntCut (rep : FrameReport) (b : Block) : (acceptReport rep b).cntCut = b.cntCut := rfl
@[simp] theorem acceptReport_cntCrc (rep : FrameReport) (b : Block) : (acceptReport rep b).cntCrc = b.cntCrc := rfl
@[simp] theorem acceptReport_cntZlen (rep : FrameReport) (b : Block) : (acceptReport rep b).cntZlen = b.cntZlen := rfl
@[simp] theorem acceptReport_cntIfsup (rep : FrameReport) (b : Block) : (acceptReport rep b).cntIfsup = b.cntIfsup := rfl

@[simp] theorem countFlags_rateHist (rep : FrameReport) (b : Block) : (countFlags rep b).rateHist = b.rateHist := rfl
@[simp] theorem countFlags_ifHist (rep : FrameReport) (b : Block) : (countFlags rep b).ifHist = b.ifHist := rfl
@[simp] theorem countFlags_cooldown (rep : FrameReport) (b : Block) : (countFlags rep b).cooldown = b.cooldown := rfl
@[simp] theorem countFlags_updateRate (rep : FrameReport) (b : Block) : (countFlags rep b).updateRate = b.updateRate := rfl
@[simp] theorem countFlags_fine (rep : FrameReport) (b : Block) : (countFlags rep b).fine = b.fine := rfl
@[simp] theorem countFlags_coarse (rep : FrameReport) (b : Block) : (countFlags rep b).coarse = b.coarse := rfl
@[simp] theorem countFlags_activeCh (rep : FrameReport) (b : Block) : (countFlags rep b).activeCh = b.activeCh := rfl
@[simp] theorem countFlags_txCode (rep : FrameReport) (b : Block) : (countFlags rep b).txCode = b.txCode := rfl
@[simp] theorem countFlags_rxCode (rep : FrameReport) (b : Block) : (countFlags rep b).rxCode = b.rxCode := rfl
@[simp] theorem countFlags_pendValid (rep : FrameReport) (b : Block) : (countFlags rep b).pendValid = b.pendValid := rfl
@[simp] theorem countFlags_pendReport (rep : FrameReport) (b : Block) : (countFlags rep b).pendReport = b.pendReport := rfl
@[simp] theorem countFlags_err (rep : FrameReport) (b : Block) : (countFlags rep b).err = b.err := rfl
@[simp] theorem countFlags_errCause (rep : FrameReport) (b : Block) : (countFlags rep b).errCause = b.errCause := rfl
@[simp] theorem countFlags_errInfo (rep : FrameReport) (b : Block) : (countFlags rep b).errInfo = b.errInfo := rfl
@[simp] theorem countFlags_lastEv (rep : FrameReport) (b : Block) : (countFlags rep b).lastEv = b.lastEv := rfl
@[simp] theorem countFlags_cntFrames (rep : FrameReport) (b : Block) : (countFlags rep b).cntFrames = b.cntFrames := rfl
@[simp] theorem countFlags_cntDrop (rep : FrameReport) (b : Block) : (countFlags rep b).cntDrop = b.cntDrop := rfl
@[simp] theorem countFlags_cntOvf (rep : FrameReport) (b : Block) : (countFlags rep b).cntOvf = b.cntOvf := rfl
@[simp] theorem countFlags_cntCut (rep : FrameReport) (b : Block) : (countFlags rep b).cntCut = countIf rep.cut b.cntCut := rfl
@[simp] theorem countFlags_cntCrc (rep : FrameReport) (b : Block) : (countFlags rep b).cntCrc = countIf rep.crc b.cntCrc := rfl
@[simp] theorem countFlags_cntZlen (rep : FrameReport) (b : Block) : (countFlags rep b).cntZlen = b.cntZlen := rfl
@[simp] theorem countFlags_cntIfsup (rep : FrameReport) (b : Block) : (countFlags rep b).cntIfsup = b.cntIfsup := rfl

@[simp] theorem discardFrame_rateHist (ch : BitVec 4) (b : Block) : (discardFrame ch b).rateHist = b.rateHist := rfl
@[simp] theorem discardFrame_ifHist (ch : BitVec 4) (b : Block) : (discardFrame ch b).ifHist = b.ifHist := rfl
@[simp] theorem discardFrame_cooldown (ch : BitVec 4) (b : Block) : (discardFrame ch b).cooldown = b.cooldown := rfl
@[simp] theorem discardFrame_updateRate (ch : BitVec 4) (b : Block) : (discardFrame ch b).updateRate = b.updateRate := rfl
@[simp] theorem discardFrame_fine (ch : BitVec 4) (b : Block) : (discardFrame ch b).fine = b.fine := rfl
@[simp] theorem discardFrame_coarse (ch : BitVec 4) (b : Block) : (discardFrame ch b).coarse = b.coarse := rfl
@[simp] theorem discardFrame_activeCh (ch : BitVec 4) (b : Block) : (discardFrame ch b).activeCh = b.activeCh := rfl
@[simp] theorem discardFrame_txCode (ch : BitVec 4) (b : Block) : (discardFrame ch b).txCode = b.txCode := rfl
@[simp] theorem discardFrame_rxCode (ch : BitVec 4) (b : Block) : (discardFrame ch b).rxCode = b.rxCode := rfl
@[simp] theorem discardFrame_pendValid (ch : BitVec 4) (b : Block) : (discardFrame ch b).pendValid = b.pendValid := rfl
@[simp] theorem discardFrame_pendReport (ch : BitVec 4) (b : Block) : (discardFrame ch b).pendReport = b.pendReport := rfl
@[simp] theorem discardFrame_err (ch : BitVec 4) (b : Block) : (discardFrame ch b).err = b.err := rfl
@[simp] theorem discardFrame_errCause (ch : BitVec 4) (b : Block) : (discardFrame ch b).errCause = b.errCause := rfl
@[simp] theorem discardFrame_errInfo (ch : BitVec 4) (b : Block) : (discardFrame ch b).errInfo = b.errInfo := rfl
@[simp] theorem discardFrame_lastEv (ch : BitVec 4) (b : Block) : (discardFrame ch b).lastEv = { LastEv.cleared with discarded := true, ch := ch } := rfl
@[simp] theorem discardFrame_cntFrames (ch : BitVec 4) (b : Block) : (discardFrame ch b).cntFrames = b.cntFrames := rfl
@[simp] theorem discardFrame_cntDrop (ch : BitVec 4) (b : Block) : (discardFrame ch b).cntDrop = b.cntDrop := rfl
@[simp] theorem discardFrame_cntOvf (ch : BitVec 4) (b : Block) : (discardFrame ch b).cntOvf = countIf true b.cntOvf := rfl
@[simp] theorem discardFrame_cntCut (ch : BitVec 4) (b : Block) : (discardFrame ch b).cntCut = b.cntCut := rfl
@[simp] theorem discardFrame_cntCrc (ch : BitVec 4) (b : Block) : (discardFrame ch b).cntCrc = b.cntCrc := rfl
@[simp] theorem discardFrame_cntZlen (ch : BitVec 4) (b : Block) : (discardFrame ch b).cntZlen = b.cntZlen := rfl
@[simp] theorem discardFrame_cntIfsup (ch : BitVec 4) (b : Block) : (discardFrame ch b).cntIfsup = b.cntIfsup := rfl

@[simp] theorem takeSamples_rateHist (est : Estimate) (b : Block) : (takeSamples est b).rateHist = pushIf est.rateValid b.rateHist est.rate := rfl
@[simp] theorem takeSamples_ifHist (est : Estimate) (b : Block) : (takeSamples est b).ifHist = pushIf est.ifValid b.ifHist est.ifs := rfl
@[simp] theorem takeSamples_cooldown (est : Estimate) (b : Block) : (takeSamples est b).cooldown = b.cooldown := rfl
@[simp] theorem takeSamples_updateRate (est : Estimate) (b : Block) : (takeSamples est b).updateRate = b.updateRate := rfl
@[simp] theorem takeSamples_fine (est : Estimate) (b : Block) : (takeSamples est b).fine = b.fine := rfl
@[simp] theorem takeSamples_coarse (est : Estimate) (b : Block) : (takeSamples est b).coarse = b.coarse := rfl
@[simp] theorem takeSamples_activeCh (est : Estimate) (b : Block) : (takeSamples est b).activeCh = b.activeCh := rfl
@[simp] theorem takeSamples_txCode (est : Estimate) (b : Block) : (takeSamples est b).txCode = b.txCode := rfl
@[simp] theorem takeSamples_rxCode (est : Estimate) (b : Block) : (takeSamples est b).rxCode = b.rxCode := rfl
@[simp] theorem takeSamples_pendValid (est : Estimate) (b : Block) : (takeSamples est b).pendValid = b.pendValid := rfl
@[simp] theorem takeSamples_pendReport (est : Estimate) (b : Block) : (takeSamples est b).pendReport = b.pendReport := rfl
@[simp] theorem takeSamples_err (est : Estimate) (b : Block) : (takeSamples est b).err = b.err := rfl
@[simp] theorem takeSamples_errCause (est : Estimate) (b : Block) : (takeSamples est b).errCause = b.errCause := rfl
@[simp] theorem takeSamples_errInfo (est : Estimate) (b : Block) : (takeSamples est b).errInfo = b.errInfo := rfl
@[simp] theorem takeSamples_lastEv (est : Estimate) (b : Block) : (takeSamples est b).lastEv = b.lastEv := rfl
@[simp] theorem takeSamples_cntFrames (est : Estimate) (b : Block) : (takeSamples est b).cntFrames = countIf true b.cntFrames := rfl
@[simp] theorem takeSamples_cntDrop (est : Estimate) (b : Block) : (takeSamples est b).cntDrop = b.cntDrop := rfl
@[simp] theorem takeSamples_cntOvf (est : Estimate) (b : Block) : (takeSamples est b).cntOvf = b.cntOvf := rfl
@[simp] theorem takeSamples_cntCut (est : Estimate) (b : Block) : (takeSamples est b).cntCut = b.cntCut := rfl
@[simp] theorem takeSamples_cntCrc (est : Estimate) (b : Block) : (takeSamples est b).cntCrc = b.cntCrc := rfl
@[simp] theorem takeSamples_cntZlen (est : Estimate) (b : Block) : (takeSamples est b).cntZlen = countIf est.zlen b.cntZlen := rfl
@[simp] theorem takeSamples_cntIfsup (est : Estimate) (b : Block) : (takeSamples est b).cntIfsup = countIf est.ifsup b.cntIfsup := rfl

@[simp] theorem applyLo_rateHist (v : Verdict) (ch : BitVec 4) (b : Block) : (applyLo v ch b).rateHist = b.rateHist := rfl
@[simp] theorem applyLo_ifHist (v : Verdict) (ch : BitVec 4) (b : Block) : (applyLo v ch b).ifHist = b.ifHist := rfl
@[simp] theorem applyLo_cooldown (v : Verdict) (ch : BitVec 4) (b : Block) : (applyLo v ch b).cooldown = b.cooldown := rfl
@[simp] theorem applyLo_updateRate (v : Verdict) (ch : BitVec 4) (b : Block) : (applyLo v ch b).updateRate = b.updateRate := rfl
@[simp] theorem applyLo_fine (v : Verdict) (ch : BitVec 4) (b : Block) : (applyLo v ch b).fine = b.fine := rfl
@[simp] theorem applyLo_coarse (v : Verdict) (ch : BitVec 4) (b : Block) : (applyLo v ch b).coarse = b.coarse := rfl
@[simp] theorem applyLo_activeCh (v : Verdict) (ch : BitVec 4) (b : Block) : (applyLo v ch b).activeCh = b.activeCh := rfl
@[simp] theorem applyLo_txCode (v : Verdict) (ch : BitVec 4) (b : Block) : (applyLo v ch b).txCode = stepChannel (verdictStep v) ch b.txCode := rfl
@[simp] theorem applyLo_rxCode (v : Verdict) (ch : BitVec 4) (b : Block) : (applyLo v ch b).rxCode = stepChannel (verdictStep v) ch b.rxCode := rfl
@[simp] theorem applyLo_pendValid (v : Verdict) (ch : BitVec 4) (b : Block) : (applyLo v ch b).pendValid = b.pendValid := rfl
@[simp] theorem applyLo_pendReport (v : Verdict) (ch : BitVec 4) (b : Block) : (applyLo v ch b).pendReport = b.pendReport := rfl
@[simp] theorem applyLo_err (v : Verdict) (ch : BitVec 4) (b : Block) : (applyLo v ch b).err = b.err := rfl
@[simp] theorem applyLo_errCause (v : Verdict) (ch : BitVec 4) (b : Block) : (applyLo v ch b).errCause = b.errCause := rfl
@[simp] theorem applyLo_errInfo (v : Verdict) (ch : BitVec 4) (b : Block) : (applyLo v ch b).errInfo = b.errInfo := rfl
@[simp] theorem applyLo_lastEv (v : Verdict) (ch : BitVec 4) (b : Block) : (applyLo v ch b).lastEv = b.lastEv := rfl
@[simp] theorem applyLo_cntFrames (v : Verdict) (ch : BitVec 4) (b : Block) : (applyLo v ch b).cntFrames = b.cntFrames := rfl
@[simp] theorem applyLo_cntDrop (v : Verdict) (ch : BitVec 4) (b : Block) : (applyLo v ch b).cntDrop = b.cntDrop := rfl
@[simp] theorem applyLo_cntOvf (v : Verdict) (ch : BitVec 4) (b : Block) : (applyLo v ch b).cntOvf = b.cntOvf := rfl
@[simp] theorem applyLo_cntCut (v : Verdict) (ch : BitVec 4) (b : Block) : (applyLo v ch b).cntCut = b.cntCut := rfl
@[simp] theorem applyLo_cntCrc (v : Verdict) (ch : BitVec 4) (b : Block) : (applyLo v ch b).cntCrc = b.cntCrc := rfl
@[simp] theorem applyLo_cntZlen (v : Verdict) (ch : BitVec 4) (b : Block) : (applyLo v ch b).cntZlen = b.cntZlen := rfl
@[simp] theorem applyLo_cntIfsup (v : Verdict) (ch : BitVec 4) (b : Block) : (applyLo v ch b).cntIfsup = b.cntIfsup := rfl

end Sys2Proof.Machine
end

