-- ==== Sys2Proof/Laws/Controller.lean ====
section
/-! SUPPORT. Everything the controller can do, and the updates it applies as plain arithmetic (43_controller.md). -/

open Sys2Proof
namespace Sys2Proof.Machine

/-- `controller_step` either evaluates, on the frame that brings the counter to `UPDATE_RATE`, or only counts. -/
theorem controllerStep_cases (p : FinePolicy) (ch : BitVec 4) (b : Block) :
    (b.cooldown.toNat + 1 = b.updateRate.toNat ∧ controllerStep p ch b = evaluate p ch b)
      ∨ (b.cooldown.toNat + 1 ≠ b.updateRate.toNat
        ∧ controllerStep p ch b = ⟨{ b with cooldown := b.cooldown + 1 }, false, .none, .none⟩) := by
  have cd : wrap 8 (zext b.cooldown + 1) = b.cooldown + 1 := by
    rw [wrap, zext, BitVec.ofInt_add]
    simp
  have reached : zext b.cooldown + 1 = zext b.updateRate ↔ b.cooldown.toNat + 1 = b.updateRate.toNat := by
    simp only [zext]
    omega
  by_cases e : b.cooldown.toNat + 1 = b.updateRate.toNat
  · exact .inl ⟨e, by rw [controllerStep, if_pos (reached.mpr e)]⟩
  · exact .inr ⟨e, by rw [controllerStep, if_neg (mt reached.mp e), cd]⟩

theorem rateVerdict_inc (rf : Int) (h : 1000 < rf) : rateVerdict rf = .inc := by
  rw [rateVerdict, if_pos h]

theorem rateVerdict_dec (rf : Int) (h : rf < -1000) : rateVerdict rf = .dec := by
  rw [rateVerdict, if_neg (by omega), if_pos h]

theorem rateVerdict_none (rf : Int) (lo : -1000 ≤ rf) (hi : rf ≤ 1000) : rateVerdict rf = .none := by
  rw [rateVerdict, if_neg (by omega), if_neg (by omega)]

theorem ifVerdict_inc (iff : Int) (h : 520 < iff) : ifVerdict iff = .inc := by
  rw [ifVerdict, if_pos h]

theorem ifVerdict_dec (iff : Int) (h : iff < 480) : ifVerdict iff = .dec := by
  rw [ifVerdict, if_neg (by omega), if_pos h]

theorem ifVerdict_none (iff : Int) (lo : 480 ≤ iff) (hi : iff ≤ 520) : ifVerdict iff = .none := by
  rw [ifVerdict, if_neg (by omega), if_neg (by omega)]

theorem stepCode_inc (c : Code) : stepCode 1 c = c + 1 := by
  simp [stepCode, wrap, sext, BitVec.ofInt_add]

theorem stepCode_dec (c : Code) : stepCode (-1) c = c - 1 := by
  rw [stepCode, wrap, sext, BitVec.ofInt_add]
  simp [BitVec.sub_eq_add_neg]

theorem stepCode_none (c : Code) : stepCode 0 c = c := by
  simp [stepCode, wrap, sext]

/-- The active channel's code is stepped. -/
theorem stepChannel_active (d : Int) (ch : BitVec 4) (codes : CodeTable) (c : Fin 11) (h : c.val = ch.toNat) :
    (stepChannel d ch codes)[c] = stepCode d codes[c] := by
  have lt : ch.toNat < 11 := h ▸ c.isLt
  obtain ⟨k, hk⟩ := c
  obtain rfl : k = ch.toNat := h
  simp [stepChannel, lt]

/-- No other channel's code is touched (43_controller.md R198). -/
theorem stepChannel_other (d : Int) (ch : BitVec 4) (codes : CodeTable) (c : Fin 11) (h : c.val ≠ ch.toNat) :
    (stepChannel d ch codes)[c] = codes[c] := by
  unfold stepChannel
  split
  · simp [Ne.symm h]
  · rfl

theorem stepChannel_none (ch : BitVec 4) (codes : CodeTable) : stepChannel 0 ch codes = codes := by
  unfold stepChannel
  split
  · simp [stepCode_none]
  · rfl

/-- The fine code after an increment (43_controller.md R196). -/
theorem applyFine_inc (p : FinePolicy) (fine : BitVec 5) :
    (applyFine p .inc fine).toNat = if fine.toNat < 31 then fine.toNat + 1 else if p = .wrap then 0 else 31 := by
  revert fine
  cases p <;> decide

/-- The fine code after a decrement (43_controller.md R196). -/
theorem applyFine_dec (p : FinePolicy) (fine : BitVec 5) :
    (applyFine p .dec fine).toNat = if 0 < fine.toNat then fine.toNat - 1 else if p = .wrap then 31 else 0 := by
  revert fine
  cases p <;> decide

end Sys2Proof.Machine
end

