-- ==== Sys2Proof/Laws/Filter.lean ====
section
/-! SUPPORT. What a push does to each cell, and the accumulator and output of a filter as plain arithmetic (42_fir_filter.md). -/

open Sys2Proof
namespace Sys2Proof.Machine

@[simp] theorem push_newest (h : History) (v : Int) : (push h v)[0] = BitVec.ofInt 32 v := rfl

@[simp] theorem push_older (h : History) (v : Int) (i : Nat) (hi : i < 10) : (push h v)[i + 1] = h[i] := by
  have cells : ∀ j : Fin 10, (push h v)[j.val + 1] = h[j.val] := by
    intro j
    fin_cases j <;> rfl
  exact cells ⟨i, hi⟩

/-- Every cell after a push is the sample or an earlier cell. -/
theorem push_cells (P : Sample → Prop) (h : History) (v : Int) (new : P (BitVec.ofInt 32 v)) (old : ∀ i : Fin 11, P h[i]) :
    ∀ i : Fin 11, P (push h v)[i] := by
  intro i
  fin_cases i
  · exact new
  all_goals first
    | exact old 0 | exact old 1 | exact old 2 | exact old 3 | exact old 4
    | exact old 5 | exact old 6 | exact old 7 | exact old 8 | exact old 9

theorem pushIf_cells (P : Sample → Prop) (valid : Bool) (h : History) (v : Int) (new : valid = true → P (BitVec.ofInt 32 v))
    (old : ∀ i : Fin 11, P h[i]) : ∀ i : Fin 11, P (pushIf valid h v)[i] := by
  cases valid with
  | true => exact push_cells P h v (new rfl) old
  | false => exact old

theorem acc_eq_weightedSum (h : History) : acc h = weightedSum h := by
  simp only [acc, tap, sext, kernel, weightedSum]
  simp
  omega

/-- The output is the one integer with the accumulator in its band of 512. -/
theorem fir_bounds (h : History) : 512 * fir h ≤ acc h ∧ acc h < 512 * fir h + 512 := by
  simp only [fir, fdiv, Int.fdiv_eq_ediv]
  omega

end Sys2Proof.Machine
end

