-- ==== Sys2Proof/Laws/Engine.lean ====
section
/-! SUPPORT. Everything an ENGINE step can do (40_frame_intake.md R134). -/

open Sys2Proof
namespace Sys2Proof.Machine

/-- Which samples and guards a report gives (41_estimator.md R158). -/
theorem estimate_cases (rep : FrameReport) :
    (rep.cut = true ∧ estimate rep = ⟨false, 0, false, 0, false, false⟩)
      ∨ (rep.cut = false ∧ rep.len = 0 ∧ estimate rep = ⟨false, 0, false, 0, true, false⟩)
      ∨ (rep.cut = false ∧ rep.len ≠ 0 ∧ rep.cec.toNat < 25
        ∧ estimate rep = ⟨true, rateSample rep.cdr.toInt rep.len.toNat, true, rep.ifc.toNat, false, false⟩)
      ∨ (rep.cut = false ∧ rep.len ≠ 0 ∧ 25 ≤ rep.cec.toNat
        ∧ estimate rep = ⟨true, rateSample rep.cdr.toInt rep.len.toNat, false, 0, false, true⟩) := by
  have len0 : zext rep.len = 0 ↔ rep.len = 0 := by
    rw [zext, ← BitVec.toNat_inj]
    simp
  have trusted : ifTrusted rep.cec = true ↔ rep.cec.toNat < 25 := by
    rw [ifTrusted, decide_eq_true_iff, zext]
    omega
  unfold estimate
  by_cases cut : rep.cut = true
  · exact .inl ⟨cut, by rw [if_pos cut]⟩
  rw [if_neg cut]
  have whole : rep.cut = false := by simpa using cut
  by_cases len : rep.len = 0
  · exact .inr (.inl ⟨whole, len, by rw [if_pos (len0.mpr len)]⟩)
  rw [if_neg (mt len0.mp len)]
  by_cases cec : rep.cec.toNat < 25
  · exact .inr (.inr (.inl ⟨whole, len, cec, by rw [if_pos (trusted.mpr cec)]; rfl⟩))
  · exact .inr (.inr (.inr ⟨whole, len, by omega, by rw [if_neg (mt trusted.mp cec)]; rfl⟩))

/-- The rate sample fits its history cell (41_estimator.md R157). -/
theorem rateSample_range (cdr : BitVec 16) (len : BitVec 8) (h : len ≠ 0) :
    -64000000 ≤ rateSample cdr.toInt len.toNat ∧ rateSample cdr.toInt len.toNat ≤ 63998046 := by
  have lo := cdr.le_toInt
  have hi := cdr.toInt_lt
  have pos : 0 < len.toNat := by
    rw [Nat.pos_iff_ne_zero]
    exact fun e => h (BitVec.eq_of_toNat_eq e)
  have below (n : Int) (k : Int) (n0 : 0 ≤ n) (k0 : 0 ≤ k) (lt : n < k * 8) : 0 ≤ n.tdiv (len.toNat * 8) ∧ n.tdiv (len.toNat * 8) < k := by
    rw [Int.tdiv_eq_ediv_of_nonneg n0]
    exact ⟨Int.ediv_nonneg n0 (by omega), Int.ediv_lt_of_lt_mul (by omega) (by nlinarith)⟩
  simp only [rateSample, tdiv]
  rcases Int.le_total 0 (cdr.toInt * 15625) with n0 | n0
  · have := below _ 63998047 n0 (by omega) (by omega)
    omega
  · have := below (-(cdr.toInt * 15625)) 64000001 (by omega) (by omega) (by omega)
    rw [Int.neg_tdiv] at this
    omega

/-- A step of ENGINE discards the report or processes it, on the block with the slot emptied and the flags counted. -/
theorem consumeReport_cases (p : FinePolicy) (b : Block) :
    (b.pendReport.ovf = true
        ∧ consumeReport p b = discardFrame b.activeCh (countFlags b.pendReport { b with pendValid := false }))
      ∨ (b.pendReport.ovf = false
        ∧ consumeReport p b = processFrame p b.pendReport b.activeCh (countFlags b.pendReport { b with pendValid := false })) := by
  cases h : b.pendReport.ovf <;> simp [consumeReport, h]

/-- The block a processed frame's controller step starts from. -/
abbrev sampled (b : Block) : Block :=
  takeSamples (estimate b.pendReport) (countFlags b.pendReport { b with pendValid := false })

/-- A processed frame that is an evaluation frame. -/
theorem consumeReport_evaluation (p : FinePolicy) (b : Block) (processed : b.pendReport.ovf = false)
    (reached : b.cooldown.toNat + 1 = b.updateRate.toNat) :
    consumeReport p b = { (evaluate p b.activeCh (sampled b)).block with
      lastEv := processedEvent (estimate b.pendReport) (evaluate p b.activeCh (sampled b)) b.activeCh b.pendReport.cut } := by
  rw [consumeReport, if_neg (by simp [processed]), processFrame]
  rcases controllerStep_cases p b.activeCh (sampled b) with ⟨_, e⟩ | ⟨counting, _⟩
  · rw [e]
  · exact absurd reached counting

/-- A processed frame that is not an evaluation frame. -/
theorem consumeReport_between (p : FinePolicy) (b : Block) (processed : b.pendReport.ovf = false)
    (counting : b.cooldown.toNat + 1 ≠ b.updateRate.toNat) :
    consumeReport p b = { sampled b with
      cooldown := b.cooldown + 1
      lastEv := processedEvent (estimate b.pendReport) ⟨sampled b, false, .none, .none⟩ b.activeCh b.pendReport.cut } := by
  rw [consumeReport, if_neg (by simp [processed]), processFrame]
  rcases controllerStep_cases p b.activeCh (sampled b) with ⟨reached, _⟩ | ⟨_, e⟩
  · exact absurd reached counting
  · rw [e]
    rfl

/-- What a processed frame leaves outside the controller's registers. -/
theorem processFrame_frame (p : FinePolicy) (rep : FrameReport) (ch : BitVec 4) (b : Block) :
    processFrame p rep ch b = { takeSamples (estimate rep) b with
      cooldown := (processFrame p rep ch b).cooldown
      fine := (processFrame p rep ch b).fine
      txCode := (processFrame p rep ch b).txCode
      rxCode := (processFrame p rep ch b).rxCode
      lastEv := (processFrame p rep ch b).lastEv } := by
  unfold processFrame
  rcases controllerStep_cases p ch (takeSamples (estimate rep) b) with ⟨_, e⟩ | ⟨_, e⟩
  · simp only [e]
    rfl
  · simp only [e]

end Sys2Proof.Machine
end

