-- ==== Sys2Proof/Laws/Operands.lean ====
section
/-! SUPPORT. The register map as a partial bijection between the mapped addresses and the register names (10_state.md R40, R64). -/

open Sys2Proof
namespace Sys2Proof.Machine

theorem regAt_regAddr (r : Reg) : regAt (regAddr r) = some r := by
  cases r <;> first | rfl | (rename_i i; revert i; decide)

theorem regAddr_regAt (a : RegAddr) (r : Reg) (h : regAt a = some r) : regAddr r = a := by
  have all : ∀ a : RegAddr, (regAt a).all (fun r => regAddr r = a) := by decide
  simpa [h] using all a

theorem regAt_eq_none_iff (a : RegAddr) : regAt a = none ↔ unmappedAddr a := by
  revert a; decide

theorem regAt_of_mapped (a : RegAddr) (h : mappedAddr a) : ∃ r, regAt a = some r := by
  cases e : regAt a with
  | some r => exact ⟨r, rfl⟩
  | none =>
    have := (regAt_eq_none_iff a).mp e
    simp only [mappedAddr, unmappedAddr] at *
    omega

end Sys2Proof.Machine
end

