-- ==== Sys2Proof/Laws/Exec.lean ====
section
/-! SUPPORT. Everything a command can do to the block, said once: callers cite it and unfold no meaning. -/

open Sys2Proof
namespace Sys2Proof.Machine

/-- The effects a command can have on the block. -/
inductive HostEffect (i : Instr) (b : Block) : Block → Prop where
  | unchanged : HostEffect i b b
  | failed (c : ErrCause) (named : c ≠ .none) : HostEffect i b (recordError c (encode i) b)
  | accepted (rep : FrameReport) : HostEffect i b (acceptReport rep b)
  | acknowledged (d : RegWord) (command : i = .write 0x02 d) (bit : d.getLsbD 1 = true) : HostEffect i b (clearError b)
  | rate (d : RegWord) (lo : 1 ≤ d.toNat) (hi : d.toNat ≤ 255) :
      HostEffect i b { b with updateRate := d.extractLsb' 0 8, cooldown := 0 }
  | channel (d : RegWord) (hi : d.toNat ≤ 10) : HostEffect i b { b with activeCh := d.extractLsb' 0 4 }
  | reset (command : i = .sreset) : HostEffect i b Block.reset

/-- What `writeReg` can do: three writes, or an error. -/
theorem writeReg_cases (r : Reg) (d : RegWord) (b : Block) :
    (∃ c, c ≠ ErrCause.none ∧ writeReg r d b = .error c)
      ∨ (r = .status ∧ writeReg r d b = .ok (writeStatus d b))
      ∨ (r = .updateRate ∧ 1 ≤ d.toNat ∧ d.toNat ≤ 255
        ∧ writeReg r d b = .ok { b with updateRate := d.extractLsb' 0 8, cooldown := 0 })
      ∨ (r = .activeCh ∧ d.toNat ≤ 10 ∧ writeReg r d b = .ok { b with activeCh := d.extractLsb' 0 4 }) := by
  cases r
  case status => exact .inr (.inl ⟨rfl, rfl⟩)
  case updateRate =>
    by_cases h : zext d < 1 ∨ zext d > 255
    · exact .inl ⟨.illegalValue, by decide, by simp only [writeReg, writeUpdateRate, if_pos h]⟩
    · have legal : 1 ≤ d.toNat ∧ d.toNat ≤ 255 := by
        simp only [zext] at h
        omega
      exact .inr (.inr (.inl ⟨rfl, legal.1, legal.2, by simp only [writeReg, writeUpdateRate, if_neg h]⟩))
  case activeCh =>
    by_cases h : zext d > 10
    · exact .inl ⟨.illegalValue, by decide, by simp only [writeReg, writeActiveCh, if_pos h]⟩
    · exact .inr (.inr (.inr ⟨rfl, by simp only [zext] at h; omega, by simp only [writeReg, writeActiveCh, if_neg h]⟩))
  all_goals exact .inl ⟨.readOnly, by decide, rfl⟩

/-- A READ of a register responds with its word. -/
theorem exec_read (s : State) (r : Reg) :
    exec (.read (regAddr r)) s
      = .next { s with responses := s.responses ++ [0#32 ++ readReg Config.finePolicy s.block r] } := by
  simp only [exec, execRead, regAt_regAddr]
  rfl

/-- A command raises an error, or goes on with an ok response and one of the listed effects. -/
theorem exec_cases (i : Instr) (s : State) :
    (∃ c, c ≠ ErrCause.none ∧ exec i s = .next (raiseCmdError c (encode i) s))
      ∨ ∃ b data, exec i s = .next { s with block := b, responses := s.responses ++ [responseWord true data] }
        ∧ HostEffect i s.block b := by
  cases i with
  | nop => exact .inr ⟨s.block, 0, rfl, .unchanged⟩
  | frame rep => exact .inr ⟨_, 0, rfl, .accepted rep⟩
  | sreset => exact .inr ⟨_, 0, rfl, .reset rfl⟩
  | read a =>
    simp only [exec, execRead]
    cases regAt a with
    | none => exact .inl ⟨.unmapped, by decide, rfl⟩
    | some r => exact .inr ⟨_, _, rfl, .unchanged⟩
  | write a d =>
    simp only [exec, execWrite]
    cases mapped : regAt a with
    | none => exact .inl ⟨.unmapped, by decide, rfl⟩
    | some r =>
      rcases writeReg_cases r d s.block with ⟨c, named, e⟩ | ⟨rfl, e⟩ | ⟨rfl, lo, hi, e⟩ | ⟨rfl, hi, e⟩ <;> simp only [e]
      · exact .inl ⟨c, named, rfl⟩
      · have addr := regAddr_regAt a _ mapped
        simp only [regAddr] at addr
        subst addr
        refine .inr ⟨_, 0, rfl, ?_⟩
        unfold writeStatus
        split
        · exact .acknowledged d rfl ‹_›
        · exact .unchanged
      · exact .inr ⟨_, 0, rfl, .rate d lo hi⟩
      · exact .inr ⟨_, 0, rfl, .channel d hi⟩

/-- A command goes on with one response, and its effect on the block is one of the listed ones. -/
theorem exec_effect (i : Instr) (s : State) :
    ∃ b ok data, exec i s = .next { s with block := b, responses := s.responses ++ [responseWord ok data] }
      ∧ HostEffect i s.block b := by
  rcases exec_cases i s with ⟨c, named, e⟩ | ⟨b, data, e, effect⟩
  · exact ⟨_, false, _, e, .failed c named⟩
  · exact ⟨b, true, data, e, effect⟩

end Sys2Proof.Machine
end

