-- ==== Sys2Proof/Laws/PerInstr.lean ====
section
/-! SUPPORT. Statements made once per command, for the host's case split over `Instr`. -/

open Sys2Proof

namespace Sys2Proof.Laws.OwnRow

/-- The row of the opcode table a command belongs to. -/
def row : Instr → OpcodeRow
  | .nop => ⟨"NOP", 0x0000000000000000, 0xFFFFFFFFFFFFFFFF⟩
  | .frame _ => ⟨"FRAME", 0x1000000000000000, 0xF800000000000000⟩
  | .read _ => ⟨"READ", 0x2000000000000000, 0xFFFFFF00FFFFFFFF⟩
  | .write _ _ => ⟨"WRITE", 0x3000000000000000, 0xFFFFFF0000000000⟩
  | .sreset => ⟨"SRESET", 0x4000000000000000, 0xFFFFFFFFFFFFFFFF⟩

/-- A command's word belongs to its own row of the opcode table, whatever its operands. -/
def Statement (i : Instr) : Prop := row i ∈ opcodeTable ∧ (row i).covers (encode i) = true

theorem nop : Statement .nop := by
  constructor <;> decide

theorem sreset : Statement .sreset := by
  constructor <;> decide

theorem frame (rep : FrameReport) : Statement (.frame rep) := by
  refine ⟨by simp [opcodeTable, row], ?_⟩
  have mask : (0xF800000000000000 : CmdWord) = BitVec.allOnes 4 ++ BitVec.allOnes 1 ++ 0#59 := rfl
  have word : encode (.frame rep) = 1#4 ++ 0#1 ++ (encodeReport rep).extractLsb' 0 59 := by
    apply BitVec.eq_of_toNat_eq
    simp only [encode, Machine.toNat_join, Machine.toNat_field, Machine.encodeReport_toNat, BitVec.toNat_ofNat]
    have := rep.len.isLt
    have := rep.cdr.isLt
    have := rep.ifc.isLt
    have := rep.cec.isLt
    have := rep.ovf.toNat_lt
    have := rep.cut.toNat_lt
    have := rep.crc.toNat_lt
    omega
  simp only [OpcodeRow.covers, row, beq_iff_eq]
  rw [word, mask, BitVec.and_append, BitVec.and_append, BitVec.and_allOnes, BitVec.and_allOnes, BitVec.and_zero]
  rfl

theorem read (a : RegAddr) : Statement (.read a) := by
  refine ⟨by simp [opcodeTable, row], ?_⟩
  have mask : (0xFFFFFF00FFFFFFFF : CmdWord) = BitVec.allOnes 4 ++ BitVec.allOnes 20 ++ 0#8 ++ BitVec.allOnes 32 := rfl
  simp only [OpcodeRow.covers, row, beq_iff_eq, encode]
  rw [mask, BitVec.and_append, BitVec.and_append, BitVec.and_append, BitVec.and_allOnes, BitVec.and_allOnes,
    BitVec.and_allOnes, BitVec.and_zero]
  rfl

theorem write (a : RegAddr) (d : RegWord) : Statement (.write a d) := by
  refine ⟨by simp [opcodeTable, row], ?_⟩
  have mask : (0xFFFFFF0000000000 : CmdWord) = BitVec.allOnes 4 ++ BitVec.allOnes 20 ++ 0#8 ++ 0#32 := rfl
  simp only [OpcodeRow.covers, row, beq_iff_eq, encode]
  rw [mask, BitVec.and_append, BitVec.and_append, BitVec.and_append, BitVec.and_allOnes, BitVec.and_allOnes,
    BitVec.and_zero, BitVec.and_zero]
  rfl

end Sys2Proof.Laws.OwnRow
end

