-- ==== Sys2Proof/Laws/Step.lean ====
section
/-! SUPPORT. Everything a step can do, by who has the turn (00_scope.md R14; 20_memory.md R87). -/

open Sys2Proof
namespace Sys2Proof.Machine

theorem step_usedUp (s : State) (h : s.turns = []) : step s = .next (engineTurn Config.finePolicy s) := by
  simp [step, takeTurn, h]

theorem step_engine (s : State) (rest : List Turn) (h : s.turns = .engine :: rest) :
    step s = .next (engineTurn Config.finePolicy { s with turns := rest }) := by
  simp [step, takeTurn, h]

theorem step_rst (s : State) (rest : List Turn) (h : s.turns = .rst :: rest) :
    step s = .next { s with block := Block.reset, turns := rest } := by
  simp [step, takeTurn, h, rstTurn, resetState]

theorem step_host (s : State) (w : CmdWord) (rest : List Turn) (h : s.turns = .host w :: rest) :
    step s = hostTurn w { s with turns := rest } := by
  simp [step, takeTurn, h]

theorem engineTurn_full (p : FinePolicy) (s : State) (h : s.block.pendValid = true) :
    engineTurn p s = { s with block := consumeReport p s.block } := by
  rw [engineTurn, if_pos h]

theorem engineTurn_empty (p : FinePolicy) (s : State) (h : s.block.pendValid = false) : engineTurn p s = s := by
  rw [engineTurn, if_neg (by simp [h])]

theorem step_engineDue (s : State) (rest : List Turn) (h : s.engineDue rest) :
    step s = .next { s with turns := rest, block := consumeReport Config.finePolicy s.block } := by
  rw [step_engine s rest h.1, engineTurn_full _ { s with turns := rest } h.2]

/-- A HOST step runs the decoded command, or raises the decoding error. -/
theorem hostTurn_cases (w : CmdWord) (s : State) :
    (∃ i, decode w = .ok i ∧ hostTurn w s = exec i s)
      ∨ ∃ e, decode w = .error e ∧ hostTurn w s = .next (raiseCmdError (decodeCause e) w s) := by
  unfold hostTurn
  cases h : decode w with
  | ok i => exact .inl ⟨i, rfl, rfl⟩
  | error e => exact .inr ⟨e, rfl, rfl⟩

/-- The block after a step, by who had the turn. -/
theorem step_block (s t : State) (h : step s = .next t) :
    (∃ w rest i, s.turns = .host w :: rest ∧ decode w = .ok i ∧ HostEffect i s.block t.block)
      ∨ (∃ w rest c, s.turns = .host w :: rest ∧ c ≠ ErrCause.none ∧ t.block = recordError c w s.block)
      ∨ (∃ rest, s.turns = .rst :: rest ∧ t.block = Block.reset)
      ∨ (s.engineNext ∧ t.block = consumeReport Config.finePolicy s.block)
      ∨ t.block = s.block := by
  have engine (turn : s.turns = [] ∨ ∃ rest, s.turns = .engine :: rest) (block : t.block = (engineTurn Config.finePolicy s).block) :
      (s.engineNext ∧ t.block = consumeReport Config.finePolicy s.block) ∨ t.block = s.block := by
    cases full : s.block.pendValid with
    | true => exact .inl ⟨⟨turn, full⟩, by rw [block, engineTurn_full _ _ full]⟩
    | false => exact .inr (by rw [block, engineTurn_empty _ _ full])
  cases turns : s.turns with
  | nil =>
    rw [step_usedUp s turns] at h
    obtain rfl := Host.Outcome.next.inj h
    exact .inr (.inr (.inr (engine (.inl turns) rfl)))
  | cons turn rest =>
    cases turn with
    | engine =>
      rw [step_engine s rest turns] at h
      obtain rfl := Host.Outcome.next.inj h
      have same : (engineTurn Config.finePolicy { s with turns := rest }).block = (engineTurn Config.finePolicy s).block := by
        unfold engineTurn
        split <;> rfl
      exact .inr (.inr (.inr (engine (.inr ⟨rest, turns⟩) same)))
    | rst =>
      rw [step_rst s rest turns] at h
      obtain rfl := Host.Outcome.next.inj h
      exact .inr (.inr (.inl ⟨rest, rfl, rfl⟩))
    | host w =>
      rw [step_host s w rest turns] at h
      rcases hostTurn_cases w { s with turns := rest } with ⟨i, ok, e⟩ | ⟨c, _, e⟩ <;> rw [e] at h
      · obtain ⟨b, _, _, e', effect⟩ := exec_effect i { s with turns := rest }
        rw [e'] at h
        obtain rfl := Host.Outcome.next.inj h
        exact .inl ⟨w, rest, i, rfl, ok, effect⟩
      · obtain rfl := Host.Outcome.next.inj h
        exact .inr (.inl ⟨w, rest, decodeCause c, rfl, by cases c <;> decide, rfl⟩)

/-- One step taken off the front of a run. -/
theorem run_succ (M : Host.Core) (k : Nat) (s t : M.State) (h : M.step s = .next t) : M.run (k + 1) s = M.run k t := by
  simp only [Host.Core.run, h]

/-- A run in two parts. -/
theorem run_add (M : Host.Core) (j k : Nat) (s t : M.State) (h : M.run j s = .next t) : M.run (j + k) s = M.run k t := by
  induction j generalizing s with
  | zero =>
    obtain rfl := Host.Outcome.next.inj h
    rw [Nat.zero_add]
  | succ j ih =>
    rw [Nat.add_right_comm]
    simp only [Host.Core.run] at h ⊢
    split at h
    · exact ih _ h
    · cases h
    · cases h

/-- Every turn that is listed is taken off the list, and the step goes on. -/
theorem step_cons (s : State) (turn : Turn) (rest : List Turn) (h : s.turns = turn :: rest) :
    ∃ t, step s = .next t ∧ t.turns = rest := by
  cases turn with
  | engine =>
    refine ⟨_, step_engine s rest h, ?_⟩
    unfold engineTurn
    split <;> rfl
  | rst => exact ⟨_, step_rst s rest h, rfl⟩
  | host w =>
    rw [step_host s w rest h]
    rcases hostTurn_cases w { s with turns := rest } with ⟨i, _, e⟩ | ⟨c, _, e⟩ <;> rw [e]
    · obtain ⟨b, _, _, e', _⟩ := exec_effect i { s with turns := rest }
      exact ⟨_, e', rfl⟩
    · exact ⟨_, rfl, rfl⟩

end Sys2Proof.Machine
end

