-- ==== Sys2Proof/Tests/Slice0.lean ====
section
/-! SUPPORT. The model's own tests, their expected results from spec/95_test_vectors.md and 30_encoding.md, and a witness for the hypotheses of each statement. -/

open Sys2Proof Sys2Proof.Machine

namespace Sys2Proof.Tests

/-- The default start state of 95_test_vectors.md, with the factory codes it takes. -/
def start : Block :=
  { Block.reset with fine := 16, coarse := 0, txCode := Vector.replicate 11 0, rxCode := Vector.replicate 11 0 }

/-- `start` with constant histories and a given cooldown, and a report pending (95_test_vectors.md 2.6). -/
def pending (rf iff : Sample) (cooldown : BitVec 8) (rep : FrameReport) : Block :=
  { start with
    rateHist := Vector.replicate 11 rf, ifHist := Vector.replicate 11 iff, cooldown := cooldown
    pendValid := true, pendReport := rep }

/-- The report of the cutoff FRAME of 95_test_vectors.md 2.6. -/
def cutoff : FrameReport := ⟨false, true, false, 0, 0, 0, 0⟩

def at' (b : Block) (turns : List Turn) : State := ⟨b, turns, []⟩

/-- What a check finds in the next state; false where there is none. -/
def nextHas (o : Host.Outcome State Fault Refusal) (check : State → Bool) : Bool :=
  match o with
  | .next t => check t
  | .fault _ => false
  | .refused _ => false

/-! ### Well-formedness: a word that each check refuses -/

theorem test_nop_word : wellFormedWord 0 = true := by decide
theorem test_nop_reserved : wellFormedWord 0x0000000000000001 = false := by decide
theorem test_frame_reserved : wellFormedWord 0x1800000000000000 = false := by decide
theorem test_read_reserved_data : wellFormedWord 0x2000000700000001 = false := by decide
theorem test_read_reserved_high : wellFormedWord 0x2000010700000000 = false := by decide
theorem test_write_reserved : wellFormedWord 0x3000010700000000 = false := by decide
theorem test_sreset_reserved : wellFormedWord 0x4000000000000001 = false := by decide
theorem test_opcode_five : wellFormedWord 0x5000000000000000 = false := by decide

/-! ### Decoding: words written out bit by bit from R101 to R105 -/

/-- OP 0001, RSV 0, OVF 0, CUT 0, CRC 1, LEN 20, CDR -16, IFC 500, CEC 30 (30_encoding.md R114). -/
theorem test_decode_frame :
    decode (0b0001_0_0_0_1_00010100_1111111111110000_0000000111110100_0000000000011110)
      = .ok (.frame ⟨false, false, true, 20, 0xFFF0, 500, 30⟩) := rfl
/-- OVF and CUT are bits 58 and 57. -/
theorem test_decode_frame_flags :
    decode (0b0001_0_1_0_0_00000000_0000000000000000_0000000000000000_0000000000000000)
      = .ok (.frame ⟨true, false, false, 0, 0, 0, 0⟩) := rfl
/-- OP 0010, RSV, A 0x07, RSV2 (30_encoding.md R114). -/
theorem test_decode_read :
    decode (0b0010_00000000000000000000_00000111_00000000000000000000000000000000) = .ok (.read 0x07) := rfl
/-- OP 0011, RSV, A 0x04, D 3 (30_encoding.md R114). -/
theorem test_decode_write :
    decode (0b0011_00000000000000000000_00000100_00000000000000000000000000000011) = .ok (.write 0x04 3) := rfl
theorem test_decode_nop : decode 0 = .ok .nop := rfl
theorem test_decode_sreset : decode 0x4000000000000000 = .ok .sreset := rfl
/-- The opcode is checked before the reserved bits (60_exceptions.md R263). -/
theorem test_decode_order : decode 0xF800000000000001 = .error .illegalOp := rfl
/-- The least significant byte comes first (20_memory.md R82). -/
theorem test_carried_bytes : decodeBytes #v[3, 0, 0, 0, 0x04, 0, 0, 0x30] = .ok (.write 0x04 3) := rfl
/-- The data of 95_test_vectors.md P4, line 4, as 20_memory.md R82 carries it. -/
theorem test_carried_response : responseBytes 0x00000000FFFFFFF3 = #v[0xF3, 0xFF, 0xFF, 0xFF] := rfl

/-! ### The assembler -/

/-- 30_encoding.md R114. -/
theorem test_assemble_frame :
    assembleLine "FRAME cdr=-16, len=20, ifc=500, cec=30, crc".toList = some [0x1114FFF001F4001E] := by decide
/-- 95_test_vectors.md P2, line 9. -/
theorem test_assemble_read : assembleLine "READ TX_CODE[2] ; code".toList = some [0x2000003200000000] := by decide
theorem test_assemble_refuses_channel : assembleLine "READ TX_CODE[11]".toList = none := by decide
/-- 30_encoding.md R112: hexadecimal with `0x`, an address as a number. -/
theorem test_assemble_hexadecimal : assembleLine "WRITE 0x04, 0x1aF".toList = some [0x30000004000001AF] := by decide
theorem test_assemble_refuses_digit : assembleLine "SETRATE 1F".toList = none := by decide
theorem test_assemble_refuses_len : assembleLine "FRAME cdr=0, len=256, ifc=0, cec=0".toList = none := by decide

/-! ### The estimator and the filters -/

/-- 95_test_vectors.md T1, T2, T9, T11. -/
theorem test_rate_sample :
    rateSample 16 20 = 1562 ∧ rateSample (-16) 20 = -1562 ∧ rateSample 32767 1 = 63998046
      ∧ rateSample (-32768) 255 = -250980 := by decide
/-- 95_test_vectors.md F4, F7, F17. -/
theorem test_fir :
    fir #v[-1562, 0, 0, 0, 0, 0, 0, 0, 0, 0, 0] = -13 ∧ fir #v[500, 400, 300, 200, 100, 0, 0, 0, 0, 0, 0] = 80
      ∧ fir #v[700, 700, 700, 500, 500, 500, 500, 500, 500, 500, 500] = 522 := by decide
/-- 95_test_vectors.md F14, F15: no wrap at the ends of the cell's range. -/
theorem test_fir_extremes :
    fir (Vector.replicate 11 0x7FFFFFFF) = 2147483647 ∧ fir (Vector.replicate 11 0x80000000) = -2147483648 := by decide
/-- 95_test_vectors.md H2. -/
theorem test_push :
    push (Vector.replicate 11 500) 7 = #v[7, 500, 500, 500, 500, 500, 500, 500, 500, 500, 500] := by decide

/-! ### The ENGINE step -/

/-- 95_test_vectors.md K9: both verdicts apply. -/
theorem test_engine_both :
    let b := consumeReport .wrap (pending 2000 600 14 cutoff)
    b.fine = 17 ∧ b.txCode[0] = 1 ∧ b.rxCode[0] = 1 ∧ b.txCode[1] = 0 ∧ lastEvWord b.lastEv = 0x4054 ∧ b.cooldown = 0 := by decide
/-- 95_test_vectors.md K12, K11: the boundary of the fine code under each policy. -/
theorem test_engine_fine_boundary :
    (consumeReport .wrap { pending (-2000) 500 14 cutoff with fine := 0 }).fine = 31
      ∧ (consumeReport .clamp { pending (-2000) 500 14 cutoff with fine := 0 }).fine = 0
      ∧ (consumeReport .wrap { pending 2000 500 14 cutoff with fine := 31 }).fine = 0
      ∧ (consumeReport .clamp { pending 2000 500 14 cutoff with fine := 31 }).fine = 31 := by decide
/-- 95_test_vectors.md K1, K5, K7: the band edges are inside the band. -/
theorem test_engine_band_edges :
    lastEvWord (consumeReport .wrap (pending 1000 520 14 cutoff)).lastEv = 0x4004
      ∧ lastEvWord (consumeReport .wrap (pending (-1000) 480 14 cutoff)).lastEv = 0x4004 := by decide
/-- 95_test_vectors.md K15: no evaluation before the counter reaches the rate. -/
theorem test_engine_no_evaluation :
    let b := consumeReport .wrap (pending 2000 600 13 cutoff)
    b.fine = 16 ∧ b.txCode[0] = 0 ∧ b.cooldown = 14 ∧ lastEvWord b.lastEv = 0x4000 := by decide
/-- 95_test_vectors.md Q4: cec 25 suppresses the IF sample, not the rate sample. -/
theorem test_engine_suppressed :
    let b := consumeReport .wrap { start with pendValid := true, pendReport := ⟨false, false, false, 20, 16, 600, 25⟩ }
    b.rateHist[0] = 1562 ∧ b.ifHist[0] = 500 ∧ lastEvWord b.lastEv = 0x2001 ∧ b.cntIfsup = 1 ∧ b.cntFrames = 1 := by decide
/-- 95_test_vectors.md Q1: the flags are counted, the frame is not. -/
theorem test_engine_discarded :
    let b := consumeReport .wrap { start with pendValid := true, pendReport := ⟨true, true, true, 0, 0, 0, 0⟩ }
    lastEvWord b.lastEv = 8 ∧ b.cntOvf = 1 ∧ b.cntCut = 1 ∧ b.cntCrc = 1 ∧ b.cntFrames = 0 ∧ b.cooldown = 0 := by decide

/-! ### The commands -/

/-- 95_test_vectors.md Z1. -/
theorem test_nop : nextHas (exec .nop (at' (pending 0 500 0 cutoff) [])) (fun t => t.block.pendValid && t.responses == [0]) = true := by
  decide
/-- 95_test_vectors.md P4, step 2. -/
theorem test_frame_overwrites :
    nextHas (exec (.frame ⟨false, false, false, 20, 0xFFF0, 400, 0⟩) (at' (pending 0 500 0 cutoff) []))
      (fun t => t.block.pendReport.cdr == 0xFFF0 && t.block.cntDrop == 1 && t.responses == [0]) = true := by decide
/-- 95_test_vectors.md P4, line 4: −13 reads as its two's-complement word. -/
theorem test_read_signed :
    nextHas (exec (.read 0x07) (at' { start with rateHist := #v[-1562, 0, 0, 0, 0, 0, 0, 0, 0, 0, 0] } []))
      (fun t => t.responses == [0x00000000FFFFFFF3]) = true := by decide
/-- 95_test_vectors.md E10. -/
theorem test_read_unmapped :
    nextHas (exec (.read 0xFF) (at' start [])) (fun t => statusWord t.block == 0x32 && t.block.errInfo == 0x200000FF
      && t.responses == [0x0000000100000003]) = true := by decide
/-- 95_test_vectors.md E17. -/
theorem test_write_rate :
    nextHas (exec (.write 0x04 0xFF) (at' { start with cooldown := 9 } [])) (fun t => t.block.updateRate == 255
      && t.block.cooldown == 0 && t.responses == [0]) = true := by decide
/-- 95_test_vectors.md E16: the datum is unsigned. -/
theorem test_write_illegal :
    nextHas (exec (.write 0x04 0xFFFFFFFF) (at' start [])) (fun t => statusWord t.block == 0x52 && t.block.updateRate == 15
      && t.responses == [0x0000000100000005]) = true := by decide
/-- 95_test_vectors.md Z3: the pending report is lost and not counted. -/
theorem test_sreset :
    nextHas (exec .sreset (at' (pending 0 500 7 cutoff) [])) (fun t => !t.block.pendValid && t.block.cntDrop == 0
      && t.block.cooldown == 0 && t.responses == [0]) = true := by decide
/-- 95_test_vectors.md E9: no reset happens. -/
theorem test_sreset_reserved_resets_nothing :
    nextHas (step (at' { start with cooldown := 7 } [.host 0x4000000000000001])) (fun t => t.block.cooldown == 7
      && statusWord t.block == 0x22 && t.block.errInfo == 0x40000000) = true := by decide
/-- 95_test_vectors.md E3, E11, E12, E13, E15, E18: one word for each clause of the error order, and one that passes. -/
theorem test_error_order :
    nextHas (step (at' start [.host 0x5000000000000000])) (fun t => t.responses == [0x0000000100000001]) = true
      ∧ nextHas (step (at' start [.host 0x3800000700000000])) (fun t => t.responses == [0x0000000100000002]) = true
      ∧ nextHas (step (at' start [.host 0x3000000C00000000])) (fun t => t.responses == [0x0000000100000003]) = true
      ∧ nextHas (step (at' start [.host 0x3000000700000000])) (fun t => t.responses == [0x0000000100000004]) = true
      ∧ nextHas (step (at' start [.host 0x3000000400000100])) (fun t => t.responses == [0x0000000100000005]) = true
      ∧ nextHas (step (at' start [.host 0x300000050000000A])) (fun t => t.responses == [0]) = true := by decide
/-- The first command after reset runs as the first step (log 2). -/
theorem test_first_command : step (State.reset.withFetchWord 64 0x2000000800000000)
    = .next { State.reset with responses := [0x00000000000001F4] } := rfl

/-! ### Witnesses: for each statement with hypotheses, values that meet them together -/

theorem witness_EncodeInvertsDecode : decode 0x2000005600000000 = .ok (.read 0x56) := rfl
theorem witness_FieldsAreReadUnscaled :
    decode 0x17FF8000FFFFFFFF = .ok (.frame ⟨true, true, true, 255, 0x8000, 0xFFFF, 0xFFFF⟩)
      ∧ decode 0x10007FFF00000000 = .ok (.frame ⟨false, false, false, 0, 0x7FFF, 0, 0⟩)
      ∧ decode 0x200000FF00000000 = .ok (.read 0xFF) ∧ decode 0x300000FFFFFFFFFF = .ok (.write 0xFF 0xFFFFFFFF) :=
  ⟨rfl, rfl, rfl, rfl⟩
theorem witness_CarriedBytesAreLittleEndian : (7 : Nat) < 8 ∧ (0 : Nat) < 8 := by decide
theorem witness_PseudoInstructionsExpand : (4294967295 : Nat) < 2 ^ 32 := by decide
theorem witness_AssemblerRefusesWhatDoesNotFit :
    expand (.frame (-32768) 255 65535 65535 true true true) = some [.frame ⟨true, true, true, 255, 0x8000, 0xFFFF, 0xFFFF⟩]
      ∧ expand (.frame 32767 0 0 0 false false false) = some [.frame ⟨false, false, false, 0, 0x7FFF, 0, 0⟩]
      ∧ expand (.frame 32768 0 0 0 false false false) = none ∧ expand (.frame (-32769) 0 0 0 false false false) = none := by decide
theorem witness_HostStepRunsTheDecodedCommand :
    ∃ (s : State) (w : CmdWord) (rest : List Turn) (i : Instr), s.turns = .host w :: rest ∧ decode w = .ok i :=
  ⟨at' start [.host 0x2000000700000000], _, _, _, rfl, rfl⟩
theorem witness_EachCommandGetsOneResponse :
    ((at' start [.host 0]).turns = .host 0 :: [] ∧ ∃ w : CmdWord, Turn.host 0 = .host w)
      ∧ (at' start [.rst]).turns = .rst :: [] ∧ ∀ w : CmdWord, Turn.rst ≠ .host w :=
  ⟨⟨rfl, 0, rfl⟩, rfl, by simp⟩
theorem witness_UsedUpOrderGivesEngineTheTurn :
    ((at' start [.engine]).turns = .engine :: [] ∧ (at' start [.engine]).block.pendValid = false)
      ∧ (at' start []).turns = [] ∧ (at' start []).block.pendValid = false := ⟨⟨rfl, rfl⟩, rfl, rfl⟩
theorem witness_FirstErrorInOrderIsReported : (at' start [.host 0x3000000400000000]).turns = .host 0x3000000400000000 :: [] := rfl
theorem witness_FailedCommandWritesOnlyTheErrorStatus :
    ∃ (t : State) (r : CmdWord), step (at' start [.host 0x200000FF00000000]) = .next t
      ∧ t.responses = (at' start [.host 0x200000FF00000000]).responses ++ [r] ∧ r.getLsbD 32 = true :=
  ⟨_, 0x0000000100000003, rfl, rfl, rfl⟩
theorem witness_NopOnlyResponds : (0 : CmdWord).toNat < 2 ^ 60 ∧ (0x0FFFFFFFFFFFFFFF : CmdWord).toNat < 2 ^ 60 := by decide
theorem witness_FrameFillsThePendingSlot :
    (0x1800000000000000 : CmdWord).toNat / 2 ^ 60 = 1 ∧ (0x17FFFFFFFFFFFFFF : CmdWord).toNat / 2 ^ 60 = 1 := by decide
theorem witness_ReadHasNoSideEffect :
    ∀ a ∈ ([0x00, 0x0B, 0x10, 0x1A, 0x20, 0x2A, 0x30, 0x3A, 0x40, 0x4A, 0x50, 0x56] : List RegAddr), mappedAddr a := by decide
theorem witness_UnmappedAddressRaises :
    ∀ a ∈ ([0x0C, 0x0F, 0x1B, 0x1F, 0x2B, 0x2F, 0x3B, 0x3F, 0x4B, 0x4F, 0x57, 0xFF] : List RegAddr), unmappedAddr a := by decide
theorem witness_WriteUpdateRateRestartsCooldown :
    (1 ≤ (1 : RegWord).toNat ∧ (1 : RegWord).toNat ≤ 255) ∧ (1 ≤ (255 : RegWord).toNat ∧ (255 : RegWord).toNat ≤ 255)
      ∧ (0 : RegWord).toNat = 0 ∧ 256 ≤ (256 : RegWord).toNat := by decide
theorem witness_WriteActiveChannel : (10 : RegWord).toNat ≤ 10 ∧ 11 ≤ (11 : RegWord).toNat := by decide
theorem witness_ReadOnlyRegistersRefuseWrites :
    mappedAddr 0x03 ∧ (0x03 : RegAddr) ≠ 0x02 ∧ (0x03 : RegAddr) ≠ 0x04 ∧ (0x03 : RegAddr) ≠ 0x05 := by decide
theorem witness_WriteLeavesTheRestAlone : (0x05 : RegAddr) ≠ 0x04 ∧ (0x04 : RegAddr) ≠ 0x05 := by decide
theorem witness_SresetRestoresTheResetBlock :
    (0x4000000000000000 : CmdWord).toNat / 2 ^ 60 = 4 ∧ (0x4000000000000001 : CmdWord).toNat / 2 ^ 60 = 4
      ∧ (0x4000000000000001 : CmdWord) ≠ 0x4000000000000000
      ∧ (at' start [.host 0x4000000000000001]).turns = .host 0x4000000000000001 :: [] := by
  refine ⟨by decide, by decide, by decide, rfl⟩
theorem witness_ResetInputIsSilentSreset : (at' start [.rst, .engine]).turns = .rst :: [.engine] := rfl
theorem witness_RateSampleTruncatesTowardZero :
    cutoff.cdr.toInt = 0 ∧ (⟨false, false, false, 20, 0xFFF0, 0, 0⟩ : FrameReport).cut = false
      ∧ (⟨false, false, false, 20, 0xFFF0, 0, 0⟩ : FrameReport).len ≠ 0
      ∧ (0xFFF0 : BitVec 16).toInt * 15625 ≤ 0 ∧ 0 ≤ (16 : BitVec 16).toInt * 15625 := by decide
theorem witness_TrustPolicy :
    cutoff.cut = true ∧ (24 : BitVec 16).toNat < 25 ∧ 25 ≤ (25 : BitVec 16).toNat
      ∧ (⟨false, false, false, 0, 5, 0, 24⟩ : FrameReport).cut = false ∧ (⟨false, false, false, 0, 5, 0, 24⟩ : FrameReport).len = 0
      ∧ (⟨false, false, false, 1, 5, 0, 25⟩ : FrameReport).cut = false ∧ (⟨false, false, false, 1, 5, 0, 25⟩ : FrameReport).len ≠ 0 := by
  decide
theorem witness_PushShiftsTheHistory :
    (-2147483648 : Int) ≤ -2147483648 ∧ (-2147483648 : Int) ≤ 2147483647 ∧ (-2147483648 : Int) ≤ 2147483647
      ∧ (2147483647 : Int) ≤ 2147483647 := by decide
theorem witness_FilterOutputLiesWithinTheCells :
    ∀ i : Fin 11, -13 ≤ (Vector.replicate 11 (-13) : History)[i].toInt ∧ (Vector.replicate 11 (-13) : History)[i].toInt ≤ -13 := by
  decide
theorem witness_OverflowFrameIsDiscarded :
    let s := at' (pending 0 500 0 ⟨true, false, false, 0, 0, 0, 0⟩) [.engine]
    s.engineDue [] ∧ s.block.pendReport.ovf = true := ⟨⟨rfl, rfl⟩, rfl⟩
theorem witness_ProcessedFrameIsCounted :
    let s := at' (pending 0 500 0 cutoff) [.engine]
    s.engineDue [] ∧ s.block.pendReport.ovf = false := ⟨⟨rfl, rfl⟩, rfl⟩
theorem witness_ProcessedFramePushesItsSamples :
    let s := at' (pending 0 500 0 ⟨false, false, false, 20, 16, 600, 24⟩) [.engine]
    s.engineDue [] ∧ s.block.pendReport.ovf = false := ⟨⟨rfl, rfl⟩, rfl⟩
theorem witness_CooldownCountsProcessedFrames :
    let s := at' (pending 0 500 14 cutoff) [.engine]
    s.engineDue [] ∧ s.block.pendReport.ovf = false ∧ s.Inv := by
  refine ⟨⟨rfl, rfl⟩, rfl, by decide, by decide, ⟨fun _ => ⟨rfl, rfl⟩, fun h => absurd h (by decide)⟩, ?_, ?_⟩ <;> intro i <;>
    left <;> revert i <;> decide
/-- Each of the three clauses at the edge of its band, on an evaluation frame. -/
theorem witness_FineCodeFollowsTheFilteredRate :
    (at' (pending 1001 500 14 cutoff) [.engine]).engineDue [] ∧ (pending 1001 500 14 cutoff).pendReport.ovf = false
      ∧ (pending 1001 500 14 cutoff).cooldown.toNat + 1 = (pending 1001 500 14 cutoff).updateRate.toNat
      ∧ 1000 < fir (consumeReport .wrap (pending 1001 500 14 cutoff)).rateHist
      ∧ fir (consumeReport .wrap (pending (-1001) 500 14 cutoff)).rateHist < -1000
      ∧ fir (consumeReport .wrap (pending 1000 500 14 cutoff)).rateHist = 1000
      ∧ fir (consumeReport .wrap (pending (-1000) 500 14 cutoff)).rateHist = -1000 := by
  refine ⟨⟨rfl, rfl⟩, rfl, rfl, ?_⟩
  decide
/-- Each clause at the edge of its band, on an evaluation frame, with the active channel and another one. -/
theorem witness_LoCodesFollowTheFilteredIf :
    (at' (pending 0 521 14 cutoff) [.engine]).engineDue [] ∧ (pending 0 521 14 cutoff).pendReport.ovf = false
      ∧ (pending 0 521 14 cutoff).cooldown.toNat + 1 = (pending 0 521 14 cutoff).updateRate.toNat
      ∧ 520 < fir (consumeReport .wrap (pending 0 521 14 cutoff)).ifHist
      ∧ fir (consumeReport .wrap (pending 0 479 14 cutoff)).ifHist < 480
      ∧ fir (consumeReport .wrap (pending 0 480 14 cutoff)).ifHist = 480
      ∧ fir (consumeReport .wrap (pending 0 520 14 cutoff)).ifHist = 520
      ∧ (0 : Fin 11).val = (pending 0 521 14 cutoff).activeCh.toNat ∧ (10 : Fin 11).val ≠ (pending 0 521 14 cutoff).activeCh.toNat := by
  refine ⟨⟨rfl, rfl⟩, rfl, rfl, ?_⟩
  decide
theorem witness_NoCodeChangesBetweenEvaluations :
    let s := at' (pending 2000 600 13 cutoff) [.engine]
    s.engineDue [] ∧ s.block.pendReport.ovf = false ∧ s.block.cooldown.toNat + 1 ≠ s.block.updateRate.toNat :=
  ⟨⟨rfl, rfl⟩, rfl, by decide⟩
theorem witness_LastEventRecordsTheFrame :
    let s := at' (pending 0 500 0 ⟨false, false, false, 0, 0, 0, 25⟩) [.engine]
    s.engineDue [] ∧ s.block.pendReport.ovf = false := ⟨⟨rfl, rfl⟩, rfl⟩
theorem witness_CrcChangesOnlyItsCounter : (at' (pending 0 500 0 cutoff) [.engine, .rst]).engineDue [.rst] := ⟨rfl, rfl⟩
theorem witness_EveryStepKeepsTheInvariants : ∃ s t : State, s.Inv ∧ step s = .next t := by
  refine ⟨at' start [.host 0], _, ⟨by decide, by decide, ⟨fun _ => ⟨rfl, rfl⟩, fun h => absurd h (by decide)⟩, ?_, ?_⟩, rfl⟩ <;>
    intro i <;> left <;> revert i <;> decide
theorem witness_HistoriesChangeOnlyByPushOrReset : ∃ t, step (at' (pending 0 500 0 cutoff) [.engine]) = .next t := ⟨_, rfl⟩
theorem witness_CodesChangeOnlyOnEvaluationOrReset : ∃ t, step (at' (pending 2000 600 14 cutoff) []) = .next t := ⟨_, rfl⟩
theorem witness_ErrorStatusChangesOnlyByItsRules : ∃ t, step (at' start [.host 0x3000000200000002]) = .next t := ⟨_, rfl⟩
theorem witness_CountersCountByOne : ∃ t, step (at' start [.rst]) = .next t := ⟨_, rfl⟩
theorem witness_ErrorStatusBlocksNothing :
    ∃ t, step (at' start [.host 0x2000000400000000]) = .next t
      ∧ (∀ rest, (at' start [.host 0x2000000400000000]).turns ≠ .host 0x2000000200000000 :: rest)
      ∧ ∀ rest, (at' start [.host 0x2000000400000000]).turns ≠ .host 0x2000000300000000 :: rest :=
  ⟨_, rfl, by simp [at'], by simp [at']⟩
theorem witness_ReadAndEngineCommuteOnTheBlock :
    mappedAddr 0x51 ∧ (0x51 : RegAddr) ∈ ([0x00, 0x01, 0x03, 0x04, 0x05, 0x0A, 0x51] : List RegAddr) := by decide
theorem witness_ConfigurationWritesCommute :
    (1 ≤ (255 : RegWord).toNat ∧ (255 : RegWord).toNat ≤ 255) ∧ (1 ≤ (1 : RegWord).toNat ∧ (1 : RegWord).toNat ≤ 255)
      ∧ (10 : RegWord).toNat ≤ 10 := by decide
theorem witness_CooldownIsTheFrameCountModuloTheRate :
    let s := at' start [.host (encode (.frame cutoff)), .engine]
    s.Inv ∧ s.block.pendValid = false ∧ (∀ rep ∈ [cutoff], rep.ovf = false)
      ∧ s.turns = [cutoff].flatMap (fun rep => [.host (encode (.frame rep)), .engine]) := by
  refine ⟨⟨by decide, by decide, ⟨fun _ => ⟨rfl, rfl⟩, fun h => absurd h (by decide)⟩, ?_, ?_⟩, rfl, by decide, rfl⟩ <;>
    intro i <;> left <;> revert i <;> decide

end Sys2Proof.Tests
end

section
/-! PROOFS. The turns of an idle ENGINE and of a used-up order (00_scope.md R14; 40_frame_intake.md R133; log 3, log 4). -/

open Sys2Proof
namespace Sys2Proof.Machine

theorem step_engine_empty (s : State) (rest : List Turn) (turns : s.turns = .engine :: rest)
    (empty : s.block.pendValid = false) : step s = .next { s with turns := rest } := by
  rw [step_engine s rest turns, engineTurn_empty _ { s with turns := rest } empty]

theorem step_usedUp_empty (s : State) (usedUp : s.turns = []) (empty : s.block.pendValid = false) : step s = .next s := by
  rw [step_usedUp s usedUp, engineTurn_empty _ s empty]

theorem step_usedUp_eq_step_engine (s : State) (usedUp : s.turns = []) :
    step s = step { s with turns := [.engine] } := by
  have same : { s with turns := [] } = s := by rw [← usedUp]
  calc step s
      _ = .next (engineTurn Config.finePolicy s) := step_usedUp s usedUp
      _ = .next (engineTurn Config.finePolicy { s with turns := [] }) := by rw [same]
      _ = step { s with turns := [.engine] } := (step_engine { s with turns := [.engine] } [] rfl).symm

/-- Settles O11: both conventions follow from the ENGINE step, which on an empty slot is the identity. -/
theorem usedUpOrderGivesEngineTheTurn : Obligations.UsedUpOrderGivesEngineTheTurn := fun s =>
  ⟨step_engine_empty s, fun usedUp => ⟨step_usedUp_eq_step_engine s usedUp, step_usedUp_empty s usedUp⟩⟩

end Sys2Proof.Machine
end

section
/-! PROOFS. What a step can do to the block, with the word that did it (10_state.md R38; 60_exceptions.md R262; 70_reset_and_hazards.md R291). -/

open Sys2Proof
namespace Sys2Proof.Machine

/-- The word that arrived is the one word of the command it decodes to (log 8). -/
theorem encode_of_decode (w : CmdWord) (i : Instr) (h : decode w = .ok i) : encode i = w := by
  rcases decode_cases w with ⟨op, e⟩ | ⟨op, e⟩ | ⟨op, e⟩ | ⟨op, e⟩ | ⟨op, e⟩ | ⟨_, e⟩ <;> rw [e] at h
  case inr.inr.inr.inr.inr => cases h
  all_goals
    split at h
    case isFalse => cases h
    rename_i reserved
    obtain rfl := Except.ok.inj h
  · conv_rhs => rw [split_control w, op, reserved]
    rfl
  · apply BitVec.eq_of_toNat_eq
    have op1 := congrArg BitVec.toNat op
    have bit59 := bit_toNat w 59
    rw [opField_toNat] at op1
    rw [reserved] at bit59
    simp only [encode, encodeReport_toNat, reportField, toNat_field, bit_toNat]
    simp at op1 bit59
    omega
  · conv_rhs => rw [split_access w, op, reserved.1, reserved.2]
    rfl
  · conv_rhs => rw [split_access w, op, reserved]
    rfl
  · conv_rhs => rw [split_control w, op, reserved]
    rfl

/-- The effects a step can have on the block, each with the turn that the rules of 10_state.md name for it. -/
inductive StepEffect (s : State) : Block → Prop where
  | unchanged : StepEffect s s.block
  | failed (w : CmdWord) (rest : List Turn) (c : ErrCause) (turn : s.turns = .host w :: rest) (named : c ≠ .none) :
      StepEffect s (recordError c w s.block)
  | acknowledged (d : RegWord) (rest : List Turn) (turn : s.turns = .host (encode (.write 0x02 d)) :: rest)
      (bit : d.getLsbD 1 = true) : StepEffect s (clearError s.block)
  | accepted (rep : FrameReport) : StepEffect s (acceptReport rep s.block)
  | rate (d : RegWord) (lo : 1 ≤ d.toNat) (hi : d.toNat ≤ 255) :
      StepEffect s { s.block with updateRate := d.extractLsb' 0 8, cooldown := 0 }
  | channel (d : RegWord) (hi : d.toNat ≤ 10) : StepEffect s { s.block with activeCh := d.extractLsb' 0 4 }
  | reset (due : s.resetNext) : StepEffect s Block.reset
  | consumed (due : s.engineNext) : StepEffect s (consumeReport Config.finePolicy s.block)

/-- The effect of a decoded command, at the word that arrived. -/
theorem HostEffect.stepEffect {s : State} {w : CmdWord} {rest : List Turn} {i : Instr} {b : Block}
    (turn : s.turns = .host w :: rest) (ok : decode w = .ok i) (effect : HostEffect i s.block b) : StepEffect s b := by
  obtain rfl := encode_of_decode w i ok
  cases effect with
  | unchanged => exact .unchanged
  | failed c named => exact .failed _ rest c turn named
  | accepted rep => exact .accepted rep
  | acknowledged d command bit =>
    subst command
    exact .acknowledged d rest turn bit
  | rate d lo hi => exact .rate d lo hi
  | channel d hi => exact .channel d hi
  | reset command =>
    subst command
    exact .reset ⟨rest, .inr turn⟩

theorem step_effect (s t : State) (h : step s = .next t) : StepEffect s t.block := by
  rcases step_block s t h with ⟨w, rest, i, turn, ok, effect⟩ | ⟨w, rest, c, turn, named, e⟩ | ⟨rest, turn, e⟩ | ⟨due, e⟩ | e
  · exact effect.stepEffect turn ok
  · exact e ▸ .failed w rest c turn named
  · exact e ▸ .reset ⟨rest, .inl turn⟩
  · exact e ▸ .consumed due
  · exact e ▸ .unchanged

end Sys2Proof.Machine
end

section
/-! PROOFS. The invariants of 10_state.md R66, of the reset block and of every step. -/

open Sys2Proof
namespace Sys2Proof.Machine

theorem blockReset_inv : Block.reset.Inv := by
  refine ⟨by decide, by decide, ⟨fun _ => ⟨rfl, rfl⟩, fun set => absurd set (by decide)⟩, ?_, ?_⟩ <;> intro i <;> left
  · exact Vector.getElem_replicate i.isLt
  · exact Vector.getElem_replicate i.isLt

/-- Settles O47: the legal configuration by evaluation, and every history cell is its seed. -/
theorem resetMeetsTheInvariants : Obligations.ResetMeetsTheInvariants := blockReset_inv

/-- A sample in the range of rate samples is a legal rate cell (41_estimator.md R157). -/
theorem rateCellOk_ofInt (v : Int) (lo : -64000000 ≤ v) (hi : v ≤ 64000000) : rateCellOk (BitVec.ofInt 32 v) := by
  have same : (BitVec.ofInt 32 v).toInt = v := BitVec.toInt_ofInt_eq_self (by decide) (by omega) (by omega)
  exact .inr (by rw [same]; exact ⟨lo, hi⟩)

theorem ifCellOk_ofInt (v : Int) (lo : 0 ≤ v) (hi : v ≤ 65535) : ifCellOk (BitVec.ofInt 32 v) := by
  have same : (BitVec.ofInt 32 v).toInt = v := BitVec.toInt_ofInt_eq_self (by decide) (by omega) (by omega)
  exact .inr (by rw [same]; exact ⟨lo, hi⟩)

/-- Every sample the estimator yields is a legal cell. -/
theorem estimate_cellsOk (rep : FrameReport) :
    rateCellOk (BitVec.ofInt 32 (estimate rep).rate) ∧ ifCellOk (BitVec.ofInt 32 (estimate rep).ifs) := by
  have rate0 := rateCellOk_ofInt 0 (by decide) (by decide)
  have if0 := ifCellOk_ofInt 0 (by decide) (by decide)
  have rate (len : rep.len ≠ 0) : rateCellOk (BitVec.ofInt 32 (rateSample rep.cdr.toInt rep.len.toNat)) := by
    obtain ⟨lo, hi⟩ := rateSample_range rep.cdr rep.len len
    exact rateCellOk_ofInt _ lo (by omega)
  have ifs := ifCellOk_ofInt rep.ifc.toNat (by omega) (by have := rep.ifc.isLt; omega)
  rcases estimate_cases rep with ⟨_, e⟩ | ⟨_, _, e⟩ | ⟨_, len, _, e⟩ | ⟨_, len, _, e⟩ <;> rw [e]
  · exact ⟨rate0, if0⟩
  · exact ⟨rate0, if0⟩
  · exact ⟨rate len, ifs⟩
  · exact ⟨rate len, if0⟩

theorem takeSamples_inv (rep : FrameReport) (b : Block) (h : b.Inv) : (takeSamples (estimate rep) b).Inv := by
  obtain ⟨cooldown, channel, status, rateCells, ifCells⟩ := h
  obtain ⟨rate, ifs⟩ := estimate_cellsOk rep
  exact ⟨cooldown, channel, status, pushIf_cells rateCellOk _ _ _ (fun _ => rate) rateCells,
    pushIf_cells ifCellOk _ _ _ (fun _ => ifs) ifCells⟩

/-- The cooldown stays below `UPDATE_RATE`: it returns to 0 on the frame that would reach it (43_controller.md R195, R202). -/
theorem controllerStep_inv (p : FinePolicy) (ch : BitVec 4) (b : Block) (h : b.Inv) : (controllerStep p ch b).block.Inv := by
  obtain ⟨⟨rate, below⟩, rest⟩ := h
  rcases controllerStep_cases p ch b with ⟨_, e⟩ | ⟨counting, e⟩ <;> rw [e]
  · exact ⟨⟨rate, rate⟩, rest⟩
  · have counted : (b.cooldown + 1).toNat < b.updateRate.toNat := by
      have := b.updateRate.isLt
      bv_omega
    exact ⟨⟨rate, counted⟩, rest⟩

theorem consumeReport_inv (p : FinePolicy) (b : Block) (h : b.Inv) : (consumeReport p b).Inv := by
  rcases consumeReport_cases p b with ⟨_, e⟩ | ⟨_, e⟩ <;> rw [e]
  · exact h
  · exact controllerStep_inv p b.activeCh _ (takeSamples_inv b.pendReport _ h)

theorem recordError_inv (c : ErrCause) (w : CmdWord) (b : Block) (named : c ≠ .none) (h : b.Inv) : (recordError c w b).Inv := by
  obtain ⟨cooldown, channel, _, cells⟩ := h
  exact ⟨cooldown, channel, ⟨fun clear => Bool.noConfusion clear, fun _ => named⟩, cells⟩

theorem clearError_inv (b : Block) (h : b.Inv) : (clearError b).Inv := by
  obtain ⟨cooldown, channel, _, cells⟩ := h
  exact ⟨cooldown, channel, ⟨fun _ => ⟨rfl, rfl⟩, fun set => Bool.noConfusion set⟩, cells⟩

theorem writeRate_inv (d : RegWord) (b : Block) (lo : 1 ≤ d.toNat) (hi : d.toNat ≤ 255) (h : b.Inv) :
    Block.Inv { b with updateRate := d.extractLsb' 0 8, cooldown := 0 } := by
  have legal : 1 ≤ (d.extractLsb' 0 8).toNat := by
    rw [toNat_field]
    omega
  exact ⟨⟨legal, legal⟩, h.2⟩

theorem writeChannel_inv (d : RegWord) (b : Block) (hi : d.toNat ≤ 10) (h : b.Inv) :
    Block.Inv { b with activeCh := d.extractLsb' 0 4 } := by
  obtain ⟨cooldown, _, rest⟩ := h
  have legal : (d.extractLsb' 0 4).toNat ≤ 10 := by
    rw [toNat_field]
    omega
  exact ⟨cooldown, legal, rest⟩

theorem StepEffect.keeps_inv {s : State} {b : Block} (effect : StepEffect s b) (h : s.block.Inv) : b.Inv := by
  cases effect with
  | unchanged => exact h
  | failed w _ c _ named => exact recordError_inv c w s.block named h
  | acknowledged => exact clearError_inv s.block h
  | accepted => exact h
  | rate d lo hi => exact writeRate_inv d s.block lo hi h
  | channel d hi => exact writeChannel_inv d s.block hi h
  | reset => exact blockReset_inv
  | consumed => exact consumeReport_inv Config.finePolicy s.block h

/-- Settles O48: each effect a step can have keeps the invariants. -/
theorem everyStepKeepsTheInvariants : Obligations.EveryStepKeepsTheInvariants := fun s t inv h =>
  (step_effect s t h).keeps_inv inv

end Sys2Proof.Machine
end

section
/-! PROOFS. What a READ of a packed or a banked register answers, and the addresses that have a register
(10_state.md R40, R42, R43, R52 to R56, R64). -/

open Sys2Proof
namespace Sys2Proof.Machine

theorem exec_read_data (s : State) (r : Reg) (a : RegAddr) (data : RegWord) (addr : regAddr r = a)
    (word : readReg Config.finePolicy s.block r = data) :
    exec (.read a) s = .next { s with responses := s.responses ++ [0#32 ++ data] } := by
  rw [← addr, ← word]
  exact exec_read s r

theorem cfgWord_eq (p : FinePolicy) : cfgWord p = if p = .clamp then 0x010B0B01 else 0x010B0B00 := by
  cases p <;> rfl

/-- `STATUS` as a sum of its fields (10_state.md R43). -/
theorem statusWord_eq (b : Block) :
    statusWord b = BitVec.ofNat 32 (16 * (causeCode b.errCause).toNat + 2 * b.err.toNat + b.pendValid.toNat) := by
  apply BitVec.eq_of_toNat_eq
  have := (causeCode b.errCause).isLt
  have := b.err.toNat_lt
  have := b.pendValid.toNat_lt
  simp only [statusWord, toNat_join, toNat_bit, BitVec.toNat_ofNat]
  omega

/-- `LASTEV` as a sum of its fields (10_state.md R52). -/
theorem lastEvWord_eq (e : LastEv) :
    lastEvWord e = BitVec.ofNat 32
      (e.ratePushed.toNat + 2 * e.ifPushed.toNat + 4 * e.eval.toNat + 8 * e.discarded.toNat
        + 16 * (verdictCode e.fineAct).toNat + 64 * (verdictCode e.loAct).toNat + 256 * e.ch.toNat
        + 4096 * e.zlen.toNat + 8192 * e.ifsup.toNat + 16384 * e.cut.toNat) := by
  apply BitVec.eq_of_toNat_eq
  have := (verdictCode e.fineAct).isLt
  have := (verdictCode e.loAct).isLt
  have := e.ch.isLt
  have bit (x : Bool) : x.toNat < 2 := x.toNat_lt
  have := bit e.ratePushed
  have := bit e.ifPushed
  have := bit e.eval
  have := bit e.discarded
  have := bit e.zlen
  have := bit e.ifsup
  have := bit e.cut
  simp only [lastEvWord, toNat_join, toNat_bit, BitVec.toNat_ofNat]
  omega

/-- Settles O17: each packed word is the sum of its fields, which the statement names by value. -/
theorem readReturnsThePackedRegisters : Obligations.ReadReturnsThePackedRegisters := by
  intro s b reads bit act cause
  have bits (x : Bool) : bit x = x.toNat := by cases x <;> rfl
  have acts (v : Verdict) : act v = (verdictCode v).toNat := by cases v <;> rfl
  have code : cause = (causeCode b.errCause).toNat := by
    simp only [cause]
    cases b.errCause <;> rfl
  simp only [bits, acts, code]
  exact ⟨exec_read_data s .cfg _ _ rfl (cfgWord_eq _), exec_read_data s .status _ _ rfl (statusWord_eq b),
    exec_read_data s .lastEv _ _ rfl (lastEvWord_eq b.lastEv)⟩

/-- Settles O18: a cell's own word is its sign extension, and a code's is by definition. -/
theorem readReturnsTheBankedRegisters : Obligations.ReadReturnsTheBankedRegisters := by
  intro s i
  have cell (c : Sample) : wrap 32 (sext c) = c := BitVec.ofInt_toInt
  exact ⟨exec_read_data s (.rateHist i) _ _ rfl (cell _), exec_read_data s (.ifHist i) _ _ rfl (cell _),
    exec_read_data s (.txCode i) _ _ rfl rfl, exec_read_data s (.rxCode i) _ _ rfl rfl⟩

theorem mappedAddr_iff_not_unmapped (a : RegAddr) : mappedAddr a ↔ ¬ unmappedAddr a := by
  have := a.isLt
  simp only [mappedAddr, unmappedAddr]
  omega

/-- Settles O22: the map has no register at exactly the holes, which are the rest of the mapped addresses. -/
theorem mapAndItsHolesPartitionTheSpace : Obligations.MapAndItsHolesPartitionTheSpace := by
  intro a
  refine ⟨regAt_eq_none_iff a, ?_⟩
  rw [mappedAddr_iff_not_unmapped, ← regAt_eq_none_iff, ← Option.ne_none_iff_exists']

end Sys2Proof.Machine
end

section
/-! PROOFS. The fields of the block after a processed frame, one lemma each (40_frame_intake.md R134). -/

open Sys2Proof
namespace Sys2Proof.Machine

@[simp] theorem processFrame_rateHist (p : FinePolicy) (rep : FrameReport) (ch : BitVec 4) (b : Block) :
    (processFrame p rep ch b).rateHist = pushIf (estimate rep).rateValid b.rateHist (estimate rep).rate := by rw [processFrame_frame]; rfl
@[simp] theorem processFrame_ifHist (p : FinePolicy) (rep : FrameReport) (ch : BitVec 4) (b : Block) :
    (processFrame p rep ch b).ifHist = pushIf (estimate rep).ifValid b.ifHist (estimate rep).ifs := by rw [processFrame_frame]; rfl
@[simp] theorem processFrame_err (p : FinePolicy) (rep : FrameReport) (ch : BitVec 4) (b : Block) :
    (processFrame p rep ch b).err = b.err := by rw [processFrame_frame]; rfl
@[simp] theorem processFrame_errCause (p : FinePolicy) (rep : FrameReport) (ch : BitVec 4) (b : Block) :
    (processFrame p rep ch b).errCause = b.errCause := by rw [processFrame_frame]; rfl
@[simp] theorem processFrame_errInfo (p : FinePolicy) (rep : FrameReport) (ch : BitVec 4) (b : Block) :
    (processFrame p rep ch b).errInfo = b.errInfo := by rw [processFrame_frame]; rfl
@[simp] theorem processFrame_cntFrames (p : FinePolicy) (rep : FrameReport) (ch : BitVec 4) (b : Block) :
    (processFrame p rep ch b).cntFrames = countIf true b.cntFrames := by rw [processFrame_frame]; rfl
@[simp] theorem processFrame_cntDrop (p : FinePolicy) (rep : FrameReport) (ch : BitVec 4) (b : Block) :
    (processFrame p rep ch b).cntDrop = b.cntDrop := by rw [processFrame_frame]; rfl
@[simp] theorem processFrame_cntOvf (p : FinePolicy) (rep : FrameReport) (ch : BitVec 4) (b : Block) :
    (processFrame p rep ch b).cntOvf = b.cntOvf := by rw [processFrame_frame]; rfl
@[simp] theorem processFrame_cntCut (p : FinePolicy) (rep : FrameReport) (ch : BitVec 4) (b : Block) :
    (processFrame p rep ch b).cntCut = b.cntCut := by rw [processFrame_frame]; rfl
@[simp] theorem processFrame_cntCrc (p : FinePolicy) (rep : FrameReport) (ch : BitVec 4) (b : Block) :
    (processFrame p rep ch b).cntCrc = b.cntCrc := by rw [processFrame_frame]; rfl
@[simp] theorem processFrame_cntZlen (p : FinePolicy) (rep : FrameReport) (ch : BitVec 4) (b : Block) :
    (processFrame p rep ch b).cntZlen = countIf (estimate rep).zlen b.cntZlen := by rw [processFrame_frame]; rfl
@[simp] theorem processFrame_cntIfsup (p : FinePolicy) (rep : FrameReport) (ch : BitVec 4) (b : Block) :
    (processFrame p rep ch b).cntIfsup = countIf (estimate rep).ifsup b.cntIfsup := by rw [processFrame_frame]; rfl

/-- The controller's part of `LASTEV` comes from its result, and the rest from the estimate and the report. -/
theorem processFrame_lastEv (p : FinePolicy) (rep : FrameReport) (ch : BitVec 4) (b : Block) :
    (processFrame p rep ch b).lastEv
      = processedEvent (estimate rep) (controllerStep p ch (takeSamples (estimate rep) b)) ch rep.cut := rfl

end Sys2Proof.Machine
end

section
/-! PROOFS. Who may change the histories, the error status and the counters, and what `LASTEV` records
(10_state.md R33, R38, R39, R52; 40_frame_intake.md R134). -/

open Sys2Proof
namespace Sys2Proof.Machine

/-- Settles O45: `LASTEV` copies the flags of the estimate, which are known in each case of the report. -/
theorem lastEventRecordsTheFrame : Obligations.LastEventRecordsTheFrame := by
  intro s rest due processed
  refine ⟨_, step_engineDue s rest due, ?_⟩
  rcases consumeReport_cases Config.finePolicy s.block with ⟨discarded, _⟩ | ⟨_, e⟩
  · simp [processed] at discarded
  rw [e, processFrame_lastEv]
  rcases estimate_cases s.block.pendReport with ⟨cut, est⟩ | ⟨whole, len, est⟩ | ⟨whole, len, cec, est⟩ | ⟨whole, len, cec, est⟩
  · simp [processedEvent, est, cut]
  · simp [processedEvent, est, whole, len]
  · simpa [processedEvent, est, whole, cec] using len
  · simpa [processedEvent, est, whole, cec] using len

theorem pushIf_cases (valid : Bool) (h : History) (v : Int) :
    pushIf valid h v = h ∨ ∃ w : Int, pushIf valid h v = push h w := by
  cases valid with
  | false => exact .inl rfl
  | true => exact .inr ⟨v, rfl⟩

theorem consumeReport_histories (p : FinePolicy) (b : Block) :
    ((consumeReport p b).rateHist = b.rateHist ∨ ∃ v : Int, (consumeReport p b).rateHist = push b.rateHist v)
      ∧ ((consumeReport p b).ifHist = b.ifHist ∨ ∃ v : Int, (consumeReport p b).ifHist = push b.ifHist v) := by
  rcases consumeReport_cases p b with ⟨_, e⟩ | ⟨_, e⟩ <;> rw [e]
  · exact ⟨.inl rfl, .inl rfl⟩
  · rw [processFrame_rateHist, processFrame_ifHist]
    exact ⟨pushIf_cases _ _ _, pushIf_cases _ _ _⟩

/-- Settles O49: only reset and the ENGINE step touch the histories. -/
theorem historiesChangeOnlyByPushOrReset : Obligations.HistoriesChangeOnlyByPushOrReset := by
  intro s t h
  have effect := step_effect s t h
  generalize t.block = b at effect
  cases effect with
  | reset due => exact .inr (.inl ⟨due, rfl⟩)
  | consumed due => exact .inr (.inr ⟨due, consumeReport_histories Config.finePolicy s.block⟩)
  | unchanged | failed | acknowledged | accepted | rate | channel => exact .inl ⟨rfl, rfl⟩

theorem consumeReport_errorStatus (p : FinePolicy) (b : Block) :
    (consumeReport p b).err = b.err ∧ (consumeReport p b).errCause = b.errCause ∧ (consumeReport p b).errInfo = b.errInfo := by
  rcases consumeReport_cases p b with ⟨_, e⟩ | ⟨_, e⟩ <;> rw [e]
  · exact ⟨rfl, rfl, rfl⟩
  · simp

/-- The upper half of a command word, as an error records it (60_exceptions.md R262). -/
theorem recordError_eq (c : ErrCause) (w : CmdWord) (b : Block) :
    recordError c w b = { b with err := true, errCause := c, errInfo := (w >>> 32).setWidth 32 } := rfl

/-- Settles O51: an error, the acknowledging WRITE and reset write the error status, and no other effect does. -/
theorem errorStatusChangesOnlyByItsRules : Obligations.ErrorStatusChangesOnlyByItsRules := by
  intro s t h
  have effect := step_effect s t h
  generalize t.block = b at effect
  cases effect with
  | failed w rest c turn named => exact .inr (.inl ⟨w, rest, c, turn, named, recordError_eq c w s.block⟩)
  | acknowledged d rest turn bit => exact .inr (.inr (.inl ⟨d, rest, turn, bit, rfl⟩))
  | reset due => exact .inr (.inr (.inr ⟨due, rfl⟩))
  | consumed => exact .inl (consumeReport_errorStatus Config.finePolicy s.block)
  | unchanged | accepted | rate | channel => exact .inl ⟨rfl, rfl, rfl⟩

theorem countIf_cases (happened : Bool) (n : RegWord) : countIf happened n = n ∨ countIf happened n = n + 1#32 := by
  cases happened with
  | false => exact .inl rfl
  | true => exact .inr rfl

/-- Each of the seven counters of 10_state.md R39 stays or goes up by one from `b` to `b'`. -/
def CountsByOne (b b' : Block) : Prop :=
  ∀ counter ∈ [Block.cntFrames, Block.cntDrop, Block.cntOvf, Block.cntCut, Block.cntCrc, Block.cntZlen, Block.cntIfsup],
    counter b' = counter b ∨ counter b' = counter b + 1

theorem acceptReport_countsByOne (rep : FrameReport) (b : Block) : CountsByOne b (acceptReport rep b) := by
  simp [CountsByOne, countIf_cases]

theorem consumeReport_countsByOne (p : FinePolicy) (b : Block) : CountsByOne b (consumeReport p b) := by
  rcases consumeReport_cases p b with ⟨_, e⟩ | ⟨_, e⟩ <;> rw [e]
  · simp [CountsByOne, countIf_cases]
  · simp [CountsByOne, countIf_cases]

/-- Settles O52: FRAME and the ENGINE step count, reset clears, and no other effect touches a counter. -/
theorem countersCountByOne : Obligations.CountersCountByOne := by
  intro s t h
  have effect := step_effect s t h
  generalize t.block = b at effect
  cases effect with
  | reset due => exact .inl ⟨due, rfl⟩
  | accepted rep => exact .inr (acceptReport_countsByOne rep s.block)
  | consumed => exact .inr (consumeReport_countsByOne Config.finePolicy s.block)
  | unchanged => exact .inr fun _ _ => .inl rfl
  | failed | acknowledged | rate | channel => exact .inr (by simp)

end Sys2Proof.Machine
end

section
/-! PROOFS. Carried bytes, the response to each turn, and the poll of the slot
(10_state.md R43; 20_memory.md R82, R88, R90; 30_encoding.md R110, R113). -/

open Sys2Proof
namespace Sys2Proof.Machine

theorem bytesOfWord_getElem (w : CmdWord) (k : Nat) (hk : k < 8) : (bytesOfWord w)[k] = w.extractLsb' (8 * k) 8 := by
  interval_cases k <;> rfl

theorem bytesOfData_getElem (d : RegWord) (k : Nat) (hk : k < 4) : (bytesOfData d)[k] = d.extractLsb' (8 * k) 8 := by
  interval_cases k <;> rfl

theorem wordOfBytes_bytesOfWord (w : CmdWord) : wordOfBytes (bytesOfWord w) = w := by
  apply BitVec.eq_of_toNat_eq
  simp only [wordOfBytes, bytesOfWord_getElem, toNat_join, toNat_field]
  omega

theorem dataOfBytes_bytesOfData (d : RegWord) : dataOfBytes (bytesOfData d) = d := by
  apply BitVec.eq_of_toNat_eq
  simp only [dataOfBytes, bytesOfData_getElem, toNat_join, toNat_field]
  omega

/-- The four low bytes of a carried response are those of its data (30_encoding.md R110; log 19). -/
theorem responseBytes_getElem (r : CmdWord) (k : Nat) (hk : k < 4) : (responseBytes r)[k] = (bytesOfWord r)[k] := by
  rw [responseBytes, responseData, bytesOfData_getElem, bytesOfWord_getElem,
    BitVec.extractLsb'_extractLsb'_of_le (by omega)]

theorem getLsbD_extractByte {n : Nat} (x : BitVec n) (start j : Nat) (hj : j < 8) :
    (x.extractLsb' start 8).getLsbD j = x.getLsbD (start + j) := by
  simp [hj]

/-- Settles O6: each byte is the field of the word at its place, and the fields joined again are the word. -/
theorem carriedBytesAreLittleEndian : Obligations.CarriedBytesAreLittleEndian := by
  intro w
  refine ⟨fun k j hj => ?_, wordOfBytes_bytesOfWord w, ?_, fun ok data => ⟨?_, fun k => ⟨?_, fun j hj => ?_⟩⟩⟩
  · rw [Fin.getElem_fin, bytesOfWord_getElem, getLsbD_extractByte _ _ _ hj]
  · rw [decodeBytes, wordOfBytes_bytesOfWord]
  · rw [responseBytes_responseWord, dataOfBytes_bytesOfData]
  · exact (responseBytes_getElem _ k.val k.isLt).symm
  · rw [responseBytes_responseWord, Fin.getElem_fin, bytesOfData_getElem, getLsbD_extractByte _ _ _ hj]

/-- Bits [63:33] of a response are zero (30_encoding.md R110). -/
theorem responseWord_high (ok : Bool) (data : RegWord) : responseWord ok data >>> 33 = 0 := by
  apply BitVec.eq_of_toNat_eq
  have := data.isLt
  have := (!ok).toNat_lt
  simp only [BitVec.toNat_ushiftRight, Nat.shiftRight_eq_div_pow, responseWord, toNat_join, toNat_bit, BitVec.toNat_ofNat,
    BitVec.ofNat_eq_ofNat]
  omega

/-- A HOST turn goes on and appends one response, whether its word is a command or not (20_memory.md R88). -/
theorem hostTurn_responds (w : CmdWord) (s : State) :
    ∃ t ok data, hostTurn w s = .next t ∧ t.turns = s.turns ∧ t.responses = s.responses ++ [responseWord ok data] := by
  rcases hostTurn_cases w s with ⟨i, _, e⟩ | ⟨c, _, e⟩
  · obtain ⟨_, ok, data, executed, _⟩ := exec_effect i s
    exact ⟨_, ok, data, e.trans executed, rfl, rfl⟩
  · exact ⟨_, false, _, e, rfl, rfl⟩

@[simp] theorem engineTurn_turns (p : FinePolicy) (s : State) : (engineTurn p s).turns = s.turns := by
  unfold engineTurn
  split <;> rfl

@[simp] theorem engineTurn_responses (p : FinePolicy) (s : State) : (engineTurn p s).responses = s.responses := by
  unfold engineTurn
  split <;> rfl

/-- Settles O10: by who has the turn; only HOST responds. -/
theorem eachCommandGetsOneResponse : Obligations.EachCommandGetsOneResponse := by
  intro s turn rest turns
  cases turn with
  | host w =>
    obtain ⟨t, ok, data, e, taken, responses⟩ := hostTurn_responds w { s with turns := rest }
    exact ⟨t, (step_host s w rest turns).trans e, taken, fun _ => ⟨_, responses, responseWord_high ok data⟩,
      fun other => absurd rfl (other w)⟩
  | engine => exact ⟨_, step_engine s rest turns, by simp, by simp, by simp⟩
  | rst => exact ⟨_, step_rst s rest turns, rfl, by simp, fun _ => rfl⟩

/-- `WAITIDLE` tests bit 0 of the response's data (30_encoding.md R113). -/
theorem pollAgain_data (data : RegWord) : pollAgain (0#32 ++ data) = data.getLsbD 0 := by
  rw [pollAgain, BitVec.getLsbD_append, if_pos (by decide)]

/-- Bit 0 of `STATUS` is `PEND` (10_state.md R43). -/
theorem statusWord_bit0 (b : Block) : (statusWord b).getLsbD 0 = b.pendValid := by
  rw [statusWord, BitVec.getLsbD_append, if_pos (by decide)]
  simp

/-- Settles O56: a READ of `STATUS` answers its word and changes nothing else, and bit 0 of that word is the slot's. -/
theorem pollSeesThePendingSlot : Obligations.PollSeesThePendingSlot := by
  intro s
  refine ⟨_, _, exec_read s .status, rfl, ?_, rfl⟩
  rw [pollAgain_data, readReg, statusWord_bit0]

end Sys2Proof.Machine
end

section
/-! PROOFS. The decoder against the encoder and the opcode table, and the fields of a word
(30_encoding.md R101 to R108, R114). -/

open Sys2Proof
open Sys2Proof.Laws.OwnRow (row)
namespace Sys2Proof.Machine

/-! ### Words of a row -/

/-- The command of the kind of `i` whose operands are the fields of `w` (30_encoding.md R106). -/
def withFieldsOf (w : CmdWord) : Instr → Instr
  | .nop => .nop
  | .frame _ => .frame (reportField w)
  | .read _ => .read (addrField w)
  | .write _ _ => .write (addrField w) (dataField w)
  | .sreset => .sreset

/-- A word of a row has the row's opcode. -/
theorem opField_of_covers (r : OpcodeRow) (listed : r ∈ opcodeTable) (w : CmdWord) (covered : r.covers w = true) :
    opField w = opField r.fixed := by
  have masked : ∀ r ∈ opcodeTable, opField r.mask = BitVec.allOnes 4 := by decide
  rw [← beq_iff_eq.mp covered, opField, opField, BitVec.extractLsb'_and, ← opField, ← opField, masked r listed,
    BitVec.and_allOnes]

/-- A word of a row has every reserved bit of the row's opcode 0 (30_encoding.md R107). -/
theorem reserved_of_covers (r : OpcodeRow) (listed : r ∈ opcodeTable) (w : CmdWord) (covered : r.covers w = true) :
    w &&& reservedMask (opField r.fixed) = 0 := by
  have masked : ∀ r ∈ opcodeTable, r.mask &&& reservedMask (opField r.fixed) = reservedMask (opField r.fixed)
      ∧ r.fixed &&& reservedMask (opField r.fixed) = 0 := by decide
  obtain ⟨withinMask, fixedClear⟩ := masked r listed
  rw [← withinMask, ← BitVec.and_assoc, beq_iff_eq.mp covered, fixedClear]

/-- The statement made per command, for every command. -/
theorem ownRow (i : Instr) : Laws.OwnRow.Statement i := by
  cases i with
  | nop => exact Laws.OwnRow.nop
  | frame rep => exact Laws.OwnRow.frame rep
  | read a => exact Laws.OwnRow.read a
  | write a d => exact Laws.OwnRow.write a d
  | sreset => exact Laws.OwnRow.sreset

theorem row_mem (i : Instr) : row i ∈ opcodeTable := (ownRow i).1
theorem row_covers_encode (i : Instr) : (row i).covers (encode i) = true := (ownRow i).2

/-- Every row of the table is the row of some command. -/
theorem exists_row (r : OpcodeRow) (listed : r ∈ opcodeTable) : ∃ i, row i = r := by
  simp only [opcodeTable, List.mem_cons, List.not_mem_nil, or_false] at listed
  rcases listed with rfl | rfl | rfl | rfl | rfl
  · exact ⟨.nop, rfl⟩
  · exact ⟨.frame (reportField 0), rfl⟩
  · exact ⟨.read 0, rfl⟩
  · exact ⟨.write 0 0, rfl⟩
  · exact ⟨.sreset, rfl⟩

/-- The decoder reads a word of a command's row as that command with the word's fields. -/
theorem decode_of_covers (i : Instr) (w : CmdWord) (covered : (row i).covers w = true) :
    decode w = .ok (withFieldsOf w i) := by
  have op := opField_of_covers (row i) (row_mem i) w covered
  have reserved := reserved_of_covers (row i) (row_mem i) w covered
  rw [decode, op, reserved]
  cases i <;> simp [row, opField, withFieldsOf]

/-! ### Fields of an encoded word -/

theorem addrField_encodeRead (a : RegAddr) : addrField (encode (.read a)) = a := by
  apply BitVec.eq_of_toNat_eq
  rw [addrField, toNat_field, encodeRead_toNat]
  omega

theorem addrField_encodeWrite (a : RegAddr) (d : RegWord) : addrField (encode (.write a d)) = a := by
  apply BitVec.eq_of_toNat_eq
  rw [addrField, toNat_field, encodeWrite_toNat]
  omega

theorem dataField_encodeWrite (a : RegAddr) (d : RegWord) : dataField (encode (.write a d)) = d := by
  apply BitVec.eq_of_toNat_eq
  rw [dataField, toNat_field, encodeWrite_toNat]
  omega

/-- The fields of a command's word are its operands. -/
theorem withFieldsOf_encode (i : Instr) : withFieldsOf (encode i) i = i := by
  cases i with
  | nop => rfl
  | frame rep => exact congrArg Instr.frame (reportField_encodeReport rep)
  | read a => exact congrArg Instr.read (addrField_encodeRead a)
  | write a d => exact congrArg₂ Instr.write (addrField_encodeWrite a d) (dataField_encodeWrite a d)
  | sreset => rfl

/-! ### What the decoder answers -/

/-- Settles O2: a command's word is of its own row, so the decoder reads its fields, which are the operands. -/
theorem decodeInvertsEncode : Obligations.DecodeInvertsEncode := fun i => by
  rw [decode_of_covers i _ (row_covers_encode i), withFieldsOf_encode]

/-- Settles O3: the opcode, the reserved bits and the fields make up the whole word. -/
theorem encodeInvertsDecode : Obligations.EncodeInvertsDecode := encode_of_decode

theorem wellFormedWord_iff_decode (w : CmdWord) : wellFormedWord w = true ↔ ∃ i, decode w = .ok i := by
  rw [wellFormedWord, List.any_eq_true]
  constructor
  · rintro ⟨r, listed, covered⟩
    obtain ⟨i, rfl⟩ := exists_row r listed
    exact ⟨_, decode_of_covers i w covered⟩
  · rintro ⟨i, ok⟩
    exact ⟨row i, row_mem i, encode_of_decode w i ok ▸ row_covers_encode i⟩

/-- The rows differ in their opcodes, so one at most covers a word (30_encoding.md R101). -/
theorem covering_rows_le_one (w : CmdWord) : (opcodeTable.filter (·.covers w)).length ≤ 1 := by
  have distinct : ∀ op : BitVec 4, opcodeTable.countP (fun r => op = opField r.fixed) ≤ 1 := by decide
  rw [← List.countP_eq_length_filter]
  refine (List.countP_mono_left fun r listed covered => ?_).trans (distinct (opField w))
  simpa using opField_of_covers r listed w covered

/-- Settles O4: each row is some command's, and the words of a command's row are those the decoder reads as its kind. -/
theorem decoderTakesExactlyTheOpcodeTable : Obligations.DecoderTakesExactlyTheOpcodeTable := fun w =>
  ⟨wellFormedWord_iff_decode w, covering_rows_le_one w⟩

/-- The operands of a decoded command are the fields of its word (30_encoding.md R106). -/
theorem withFieldsOf_decode (w : CmdWord) (i : Instr) (ok : decode w = .ok i) : withFieldsOf w i = i := by
  have fields := withFieldsOf_encode i
  rwa [encode_of_decode w i ok] at fields

/-- A field read as signed: its number, less the field's span when the top bit is set. -/
theorem toInt_field16 {n : Nat} (s : Nat) (x : BitVec n) :
    (x.extractLsb' s 16).toInt = if x.toNat / 2 ^ s % 2 ^ 16 < 32768 then ((x.toNat / 2 ^ s % 2 ^ 16 : Nat) : Int)
      else ((x.toNat / 2 ^ s % 2 ^ 16 : Nat) : Int) - 65536 := by
  rw [BitVec.toInt_eq_toNat_cond, toNat_field]
  omega

/-- Settles O5: a decoded command's operands are fields of the word, and a field is a quotient's remainder. -/
theorem fieldsAreReadUnscaled : Obligations.FieldsAreReadUnscaled := by
  intro w
  refine ⟨fun rep ok => ?_, fun a ok => ?_, fun a d ok => ?_⟩
  · obtain rfl := Instr.frame.inj (withFieldsOf_decode w _ ok)
    exact ⟨rfl, rfl, rfl, toNat_field 48 8 w, toInt_field16 32 w, toNat_field 16 16 w, by simp [reportField]⟩
  · obtain rfl := Instr.read.inj (withFieldsOf_decode w _ ok)
    exact toNat_field 32 8 w
  · obtain ⟨rfl, rfl⟩ := Instr.write.inj (withFieldsOf_decode w _ ok)
    exact ⟨toNat_field 32 8 w, by simp [dataField]⟩

/-- Settles O1: fixed words, each evaluated by the decoder. -/
theorem publishedWordsDecode : Obligations.PublishedWordsDecode :=
  ⟨rfl, rfl, rfl, rfl, rfl, rfl, rfl, rfl, rfl⟩

theorem hostTurn_of_decode (w : CmdWord) (s : State) (i : Instr) (ok : decode w = .ok i) : hostTurn w s = exec i s := by
  rw [hostTurn, ok]

/-- Settles O9: HOST has the turn, and its word decodes. -/
theorem hostStepRunsTheDecodedCommand : Obligations.HostStepRunsTheDecodedCommand := fun s w rest i turns ok =>
  (step_host s w rest turns).trans (hostTurn_of_decode w _ i ok)

end Sys2Proof.Machine
end

section
/-! PROOFS. Which values the assembler takes, and what a line expands to (30_encoding.md R112, R113). -/

open Sys2Proof
namespace Sys2Proof.Machine

theorem fitNat_eq_none_iff (n v : Nat) : fitNat n v = none ↔ 2 ^ n ≤ v := by
  simp [fitNat]

theorem fitNat_of_lt {n v : Nat} (fits : v < 2 ^ n) : fitNat n v = some (BitVec.ofNat n v) := if_pos fits

/-- A value that is taken is the number its field holds. -/
theorem fitNat_toNat {n v : Nat} {x : BitVec n} (taken : fitNat n v = some x) : x.toNat = v := by
  obtain ⟨fits, rfl⟩ := Option.ite_some_none_eq_some.mp taken
  rw [BitVec.toNat_ofNat, Nat.mod_eq_of_lt fits]

theorem fitInt_eq_none_iff (n : Nat) (v : Int) : fitInt n v = none ↔ v < -2 ^ (n - 1) ∨ 2 ^ (n - 1) ≤ v := by
  rw [fitInt, ite_eq_right_iff, imp_iff_not (by simp), not_and_or, not_le, not_lt]

/-- A signed value that is taken is the number its field holds. -/
theorem fitInt_toInt {n : Nat} (pos : 0 < n) {v : Int} {x : BitVec n} (taken : fitInt n v = some x) : x.toInt = v := by
  obtain ⟨⟨lo, hi⟩, rfl⟩ := Option.ite_some_none_eq_some.mp taken
  exact BitVec.toInt_ofInt_eq_self pos lo hi

/-- A FRAME line is refused when one of its four values is. -/
theorem expand_frame_eq_none_iff (cdr : Int) (len ifc cec : Nat) (crc cut ovf : Bool) :
    expand (.frame cdr len ifc cec crc cut ovf) = none ↔
      fitNat 8 len = none ∨ fitInt 16 cdr = none ∨ fitNat 16 ifc = none ∨ fitNat 16 cec = none := by
  rw [expand]
  cases fitNat 8 len <;> cases fitInt 16 cdr <;> cases fitNat 16 ifc <;> cases fitNat 16 cec <;> simp

/-- A FRAME line that is taken is one FRAME of the fitted values. -/
theorem expand_frame_eq_some_iff (cdr : Int) (len ifc cec : Nat) (crc cut ovf : Bool) (is : List Instr) :
    expand (.frame cdr len ifc cec crc cut ovf) = some is ↔
      ∃ l, fitNat 8 len = some l ∧ ∃ c, fitInt 16 cdr = some c ∧ ∃ i, fitNat 16 ifc = some i ∧ ∃ e, fitNat 16 cec = some e
        ∧ [.frame ⟨ovf, cut, crc, l, c, i, e⟩] = is := by
  simp [expand, Option.bind_eq_some_iff]

/-- Settles O8: the line is refused when a value is, and a value that is taken is the number in its field. -/
theorem assemblerRefusesWhatDoesNotFit : Obligations.AssemblerRefusesWhatDoesNotFit := by
  intro cdr len ifc cec crc cut ovf
  constructor
  · rw [expand_frame_eq_none_iff]
    simp only [fitNat_eq_none_iff, fitInt_eq_none_iff]
    omega
  · intro is taken
    obtain ⟨l, len', c, cdr', i, ifc', e, cec', rfl⟩ := (expand_frame_eq_some_iff ..).mp taken
    exact ⟨_, rfl, fitInt_toInt (by decide) cdr', fitNat_toNat len', fitNat_toNat ifc', fitNat_toNat cec', rfl, rfl, rfl⟩

/-- Settles O7: a datum that fits 32 bits is taken, and the addresses are those of the register map. -/
theorem pseudoInstructionsExpand : Obligations.PseudoInstructionsExpand := by
  refine ⟨fun n fits => ⟨?_, ?_⟩, rfl, rfl, rfl, pollAgain_data⟩
  · rw [expand, fitNat_of_lt fits]
    rfl
  · rw [expand, fitNat_of_lt fits]
    rfl

end Sys2Proof.Machine
end

section
/-! PROOFS. Frame intake: FRAME, and what an ENGINE step does with a report that is discarded or processed
(40_frame_intake.md R130, R134 to R137). -/

open Sys2Proof
namespace Sys2Proof.Machine

/-! ### FRAME -/

theorem exec_frame (rep : FrameReport) (s : State) :
    exec (.frame rep) s = .next { s with block := acceptReport rep s.block, responses := s.responses ++ [0] } := rfl

/-- A word of FRAME's opcode is a command unless bit 59 is set (30_encoding.md R107). -/
theorem decode_opcode1 (w : CmdWord) (op : opField w = 1) :
    decode w = if w.getLsbD 59 = false then .ok (.frame (reportField w)) else .error .reservedBits := by
  rcases decode_cases w with ⟨other, _⟩ | ⟨_, e⟩ | ⟨other, _⟩ | ⟨other, _⟩ | ⟨other, _⟩ | ⟨other, _⟩
  case inr.inl => exact e
  all_goals simp [op] at other

/-- Settles O15: FRAME accepts its report and responds 0, and bit 59 is the one reserved bit of its opcode. -/
theorem frameFillsThePendingSlot : Obligations.FrameFillsThePendingSlot := by
  refine ⟨exec_frame, fun w opcode => ?_⟩
  have op : opField w = 1 := BitVec.eq_of_toNat_eq (by rw [opField_toNat, opcode]; rfl)
  rw [decode_opcode1 w op]
  cases w.getLsbD 59 with
  | true => rfl
  | false => exact ⟨_, rfl⟩

/-! ### A discarded report -/

theorem consumeReport_discarded (p : FinePolicy) (b : Block) (ovf : b.pendReport.ovf = true) :
    consumeReport p b = discardFrame b.activeCh (countFlags b.pendReport { b with pendValid := false }) := by
  rw [consumeReport, if_pos ovf]

/-- Settles O38: the flags are counted, and the report is discarded. -/
theorem overflowFrameIsDiscarded : Obligations.OverflowFrameIsDiscarded := by
  intro s rest due ovf
  rw [step_engineDue s rest due, consumeReport_discarded _ _ ovf]
  rfl

/-! ### A processed report -/

theorem consumeReport_processed (p : FinePolicy) (b : Block) (processed : b.pendReport.ovf = false) :
    consumeReport p b = processFrame p b.pendReport b.activeCh (countFlags b.pendReport { b with pendValid := false }) := by
  rw [consumeReport, if_neg (by simp [processed])]

@[simp] theorem processFrame_pendValid (p : FinePolicy) (rep : FrameReport) (ch : BitVec 4) (b : Block) :
    (processFrame p rep ch b).pendValid = b.pendValid := by rw [processFrame_frame]; rfl
@[simp] theorem processFrame_pendReport (p : FinePolicy) (rep : FrameReport) (ch : BitVec 4) (b : Block) :
    (processFrame p rep ch b).pendReport = b.pendReport := by rw [processFrame_frame]; rfl
@[simp] theorem processFrame_updateRate (p : FinePolicy) (rep : FrameReport) (ch : BitVec 4) (b : Block) :
    (processFrame p rep ch b).updateRate = b.updateRate := by rw [processFrame_frame]; rfl
@[simp] theorem processFrame_activeCh (p : FinePolicy) (rep : FrameReport) (ch : BitVec 4) (b : Block) :
    (processFrame p rep ch b).activeCh = b.activeCh := by rw [processFrame_frame]; rfl
@[simp] theorem processFrame_coarse (p : FinePolicy) (rep : FrameReport) (ch : BitVec 4) (b : Block) :
    (processFrame p rep ch b).coarse = b.coarse := by rw [processFrame_frame]; rfl

theorem countIf_eq_ite {happened : Bool} {P : Prop} [Decidable P] (iff : happened = true ↔ P) (n : RegWord) :
    countIf happened n = if P then n + 1 else n := by
  simp only [countIf, iff]

/-- The zero-length guard fires on a whole report of length 0 (41_estimator.md R153). -/
theorem estimate_zlen (rep : FrameReport) : (estimate rep).zlen = true ↔ rep.cut = false ∧ rep.len = 0 := by
  rcases estimate_cases rep with ⟨cut, est⟩ | ⟨whole, len, est⟩ | ⟨_, len, _, est⟩ | ⟨_, len, _, est⟩ <;> rw [est]
  · simp [cut]
  · simp [whole, len]
  · simpa using fun _ => len
  · simpa using fun _ => len

/-- The IF suppression fires on a report with a rate sample and 25 chip errors or more (41_estimator.md R154). -/
theorem estimate_ifsup (rep : FrameReport) :
    (estimate rep).ifsup = true ↔ rep.cut = false ∧ rep.len ≠ 0 ∧ 25 ≤ rep.cec.toNat := by
  rcases estimate_cases rep with ⟨cut, est⟩ | ⟨_, len, est⟩ | ⟨_, _, cec, est⟩ | ⟨whole, len, cec, est⟩ <;> rw [est]
  · simp [cut]
  · simp [len]
  · simpa using fun _ _ => cec
  · exact iff_of_true rfl ⟨whole, len, cec⟩

/-- Settles O39: ENGINE counts the flags and the guards, and the controller leaves all other fields named here. -/
theorem processedFrameIsCounted : Obligations.ProcessedFrameIsCounted := by
  intro s rest due processed b rep
  refine ⟨_, step_engineDue s rest due, ?_⟩
  rw [consumeReport_processed _ _ processed]
  exact ⟨processFrame_pendValid .., processFrame_cntFrames .., processFrame_cntCut .., processFrame_cntCrc ..,
    (processFrame_cntZlen ..).trans (countIf_eq_ite (estimate_zlen rep) b.cntZlen),
    (processFrame_cntIfsup ..).trans (countIf_eq_ite (estimate_ifsup rep) b.cntIfsup),
    processFrame_cntOvf .., processFrame_cntDrop .., processFrame_pendReport ..,
    processFrame_updateRate .., processFrame_activeCh .., processFrame_coarse ..,
    processFrame_err .., processFrame_errCause .., processFrame_errInfo ..⟩

/-- A sample of 32 bits is the newest cell of its history after the push, and the other cells move one place (42_fir_filter.md R171). -/
theorem push_sample (h : History) (v : Int) (lo : -2147483648 ≤ v) (hi : v < 2147483648) :
    (push h v)[0].toInt = v ∧ ∀ i : Fin 10, (push h v)[i.val + 1] = h[i.val] :=
  ⟨BitVec.toInt_ofInt_eq_self (by decide) lo hi, fun i => push_older h v i.val i.isLt⟩

theorem push_rateSample (h : History) (rep : FrameReport) (len : rep.len ≠ 0) :
    (push h (rateSample rep.cdr.toInt rep.len.toNat))[0].toInt = Int.tdiv (rep.cdr.toInt * 15625) (rep.len.toNat * 8)
      ∧ ∀ i : Fin 10, (push h (rateSample rep.cdr.toInt rep.len.toNat))[i.val + 1] = h[i.val] := by
  obtain ⟨lo, hi⟩ := rateSample_range rep.cdr rep.len len
  exact push_sample h _ (by omega) (by omega)

theorem push_ifSample (h : History) (rep : FrameReport) :
    (push h rep.ifc.toNat)[0].toInt = rep.ifc.toNat ∧ ∀ i : Fin 10, (push h rep.ifc.toNat)[i.val + 1] = h[i.val] := by
  have := rep.ifc.isLt
  exact push_sample h _ (by omega) (by omega)

/-- Settles O40: in each case of the report the estimate says which samples there are, and a sample fits its cell. -/
theorem processedFramePushesItsSamples : Obligations.ProcessedFramePushesItsSamples := by
  intro s rest due processed b rep
  refine ⟨_, step_engineDue s rest due, ?_⟩
  rw [consumeReport_processed _ _ processed, processFrame_rateHist, processFrame_ifHist]
  have rate := push_rateSample b.rateHist rep
  have ifs := push_ifSample b.ifHist rep
  rcases estimate_cases rep with ⟨cut, est⟩ | ⟨_, len, est⟩ | ⟨whole, len, cec, est⟩ | ⟨whole, len, cec, est⟩ <;> rw [est]
  · rw [if_neg (by simp [cut]), if_neg (by simp [cut])]
    exact ⟨rfl, rfl⟩
  · rw [if_neg (by simp [len]), if_neg (by simp [len])]
    exact ⟨rfl, rfl⟩
  · rw [if_pos ⟨whole, len⟩, if_pos ⟨whole, len, cec⟩]
    exact ⟨rate len, ifs⟩
  · rw [if_pos ⟨whole, len⟩, if_neg (by omega)]
    exact ⟨rate len, rfl⟩

/-! ### The crc flag -/

/-- The controller neither reads nor writes the report and `CNT_CRC`. -/
theorem controllerStep_withCrc (p : FinePolicy) (ch : BitVec 4) (rep : FrameReport) (n : RegWord) (b : Block) :
    controllerStep p ch { b with pendReport := rep, cntCrc := n }
      = { controllerStep p ch b with
          block := { (controllerStep p ch b).block with pendReport := rep, cntCrc := n } } := by
  simp only [controllerStep]
  split <;> rfl

/-- A processed frame does not depend on the flag: the estimator does not read it (40_frame_intake.md R136). -/
theorem processFrame_withCrc (p : FinePolicy) (rep slot : FrameReport) (crc : Bool) (n : RegWord) (ch : BitVec 4) (b : Block) :
    processFrame p { rep with crc := crc } ch { b with pendReport := slot, cntCrc := n }
      = { processFrame p rep ch b with pendReport := slot, cntCrc := n } := by
  have sameEstimate : estimate { rep with crc := crc } = estimate rep := rfl
  have sameSamples : takeSamples (estimate rep) { b with pendReport := slot, cntCrc := n }
      = { takeSamples (estimate rep) b with pendReport := slot, cntCrc := n } := rfl
  simp only [processFrame, sameEstimate, sameSamples, controllerStep_withCrc]
  rfl

/-- The ENGINE step on the same report with another flag. -/
theorem consumeReport_withCrc (p : FinePolicy) (crc : Bool) (b : Block) :
    consumeReport p { b with pendReport := { b.pendReport with crc := crc } }
      = { consumeReport p b with pendReport := { b.pendReport with crc := crc }, cntCrc := countIf crc b.cntCrc } := by
  cases ovf : b.pendReport.ovf with
  | true =>
    rw [consumeReport_discarded p b ovf]
    exact consumeReport_discarded p _ ovf
  | false =>
    rw [consumeReport_processed p b ovf, ← processFrame_withCrc]
    exact consumeReport_processed p _ ovf

/-- Settles O46: the flag reaches nothing but its counter, whether the report is discarded or processed. -/
theorem crcChangesOnlyItsCounter : Obligations.CrcChangesOnlyItsCounter := by
  intro s rest crc due
  refine ⟨_, step_engineDue s rest due, ?_⟩
  rw [step_engineDue _ rest, consumeReport_withCrc]
  · rfl
  · exact due

end Sys2Proof.Machine
end

section
/-! PROOFS. The estimator: which samples a report gives, and how the rate sample is rounded (41_estimator.md R151 to R157). -/

open Sys2Proof
namespace Sys2Proof.Machine

/-! ### The quotient rounded toward zero -/

theorem tdiv_bounds_of_nonneg {n d : Int} (pos : 0 < d) (n0 : 0 ≤ n) :
    0 ≤ tdiv n d ∧ d * tdiv n d ≤ n ∧ n < d * (tdiv n d + 1) := by
  rw [tdiv, Int.tdiv_eq_ediv_of_nonneg n0, mul_add, mul_one]
  exact ⟨Int.ediv_nonneg n0 pos.le, Int.mul_ediv_self_le pos.ne', Int.lt_mul_ediv_self_add pos⟩

/-- The mirror image of `tdiv_bounds_of_nonneg`: here the quotient is rounded up. -/
theorem tdiv_bounds_of_nonpos {n d : Int} (pos : 0 < d) (n0 : n ≤ 0) :
    tdiv n d ≤ 0 ∧ n ≤ d * tdiv n d ∧ d * (tdiv n d - 1) < n := by
  have mirror : tdiv (-n) d = -tdiv n d := Int.neg_tdiv ..
  obtain ⟨sign, below, above⟩ := tdiv_bounds_of_nonneg pos (neg_nonneg.mpr n0)
  rw [mirror] at sign below above
  exact ⟨by linarith, by linarith, by linarith⟩

/-! ### The rate sample of a report -/

/-- A whole report of any length but 0 gives a rate sample, whatever `cec` is (41_estimator.md R155). -/
theorem estimate_rateValid (rep : FrameReport) : (estimate rep).rateValid = true ↔ rep.cut = false ∧ rep.len ≠ 0 := by
  rcases estimate_cases rep with ⟨cut, est⟩ | ⟨_, len, est⟩ | ⟨whole, len, _, est⟩ | ⟨whole, len, _, est⟩ <;> rw [est]
  · simp [cut]
  · simp [len]
  · exact iff_of_true rfl ⟨whole, len⟩
  · exact iff_of_true rfl ⟨whole, len⟩

theorem estimate_rate (rep : FrameReport) :
    (estimate rep).rate = if rep.cut = false ∧ rep.len ≠ 0 then rateSample rep.cdr.toInt rep.len.toNat else 0 := by
  rcases estimate_cases rep with ⟨cut, est⟩ | ⟨_, len, est⟩ | ⟨whole, len, _, est⟩ | ⟨whole, len, _, est⟩ <;> rw [est]
  · rw [if_neg (by simp [cut])]
  · rw [if_neg (by simp [len])]
  · rw [if_pos ⟨whole, len⟩]
  · rw [if_pos ⟨whole, len⟩]

/-- Settles O31: the rate sample is a `tdiv` by a positive divisor. -/
theorem rateSampleTruncatesTowardZero : Obligations.RateSampleTruncatesTowardZero := by
  intro rep whole len n d rate
  have pos : 0 < d := by
    have : rep.len.toNat ≠ 0 := fun zero => len (BitVec.eq_of_toNat_eq zero)
    omega
  have quotient : rate = tdiv n d := (estimate_rate rep).trans (if_pos ⟨whole, len⟩)
  rw [quotient]
  exact ⟨(estimate_rateValid rep).mpr ⟨whole, len⟩, tdiv_bounds_of_nonneg pos, tdiv_bounds_of_nonpos pos⟩

/-- Settles O32: the ends are reached by the extreme values of `cdr` in a report of one byte. -/
theorem rateSampleRange : Obligations.RateSampleRange := by
  refine ⟨fun rep => ?_, ⟨⟨false, false, false, 1, 0x8000, 0, 0⟩, by decide⟩, ⟨⟨false, false, false, 1, 0x7FFF, 0, 0⟩, by decide⟩⟩
  rw [estimate_rate]
  split
  case isTrue sampled => exact rateSample_range rep.cdr rep.len sampled.2
  case isFalse => decide

/-- Settles O33: the four clauses are the four cases of the estimate, and no condition on the rate sample names `cec`. -/
theorem trustPolicy : Obligations.TrustPolicy := by
  intro rep e
  have independent (cec : BitVec 16) :
      (estimate { rep with cec := cec }).rate = e.rate ∧ (estimate { rep with cec := cec }).rateValid = e.rateValid :=
    ⟨by simp only [e, estimate_rate], Bool.eq_iff_iff.mpr (by simp only [e, estimate_rateValid])⟩
  rcases estimate_cases rep with ⟨cut, est⟩ | ⟨whole, len, est⟩ | ⟨whole, len, cec, est⟩ | ⟨whole, len, cec, est⟩
  · simpa [e, est, cut] using independent
  · simpa [e, est, whole, len] using independent
  · simpa [e, est, whole, cec] using And.intro len independent
  · simpa [e, est, whole, cec] using And.intro len independent

end Sys2Proof.Machine
end

section
/-! PROOFS. The filter: its output as a mean of the cells with the weights of the kernel, and what a push and a READ do with it
(42_fir_filter.md R171 to R177). -/

open Sys2Proof
namespace Sys2Proof.Machine

/-! ### The weights -/

theorem kernel_symmetric : ∀ i : Fin 11, kernel[i] = kernel[10 - i.val] := by decide

theorem kernel_nonneg : ∀ i : Fin 11, 0 ≤ kernel[i] := by decide

/-- The weights sum to the divisor, so that the output is a mean (42_fir_filter.md R175). -/
theorem kernel_sum : ∑ i : Fin 11, kernel[i] = 512 := by decide

theorem acc_eq_sum (h : History) : acc h = ∑ i, tap h i := by
  simp only [acc, Fin.sum_univ_castSucc, Fin.sum_univ_zero, zero_add]
  rfl

/-! ### A reversed history -/

/-- Each product of the reversed history is the product at the mirrored place (42_fir_filter.md R174). -/
theorem tap_reverse (h : History) (i : Fin 11) : tap h.reverse i = tap h i.rev := by
  have weight : kernel[i] = kernel[i.rev] := by
    rw [kernel_symmetric i]
    simp [Fin.val_rev]
  have cell : h.reverse[i] = h[i.rev] := by
    simp [Fin.val_rev]
  rw [tap, tap, weight, cell]

theorem acc_reverse (h : History) : acc h.reverse = acc h := by
  simp only [acc_eq_sum, tap_reverse]
  exact Equiv.sum_comp Fin.revPerm (tap h)

/-! ### Bounds -/

/-- Bounds of the cells are bounds of the accumulator, scaled by the sum of the weights. -/
theorem acc_within (h : History) (lo hi : Int) (cells : ∀ i : Fin 11, lo ≤ h[i].toInt ∧ h[i].toInt ≤ hi) :
    512 * lo ≤ acc h ∧ acc h ≤ 512 * hi := by
  have product (i : Fin 11) : kernel[i] * lo ≤ tap h i ∧ tap h i ≤ kernel[i] * hi := by
    obtain ⟨above, below⟩ := cells i
    rw [tap, mul_comm (sext _)]
    exact ⟨mul_le_mul_of_nonneg_left above (kernel_nonneg i), mul_le_mul_of_nonneg_left below (kernel_nonneg i)⟩
  rw [acc_eq_sum, ← kernel_sum, Finset.sum_mul, Finset.sum_mul]
  exact ⟨Finset.sum_le_sum fun i _ => (product i).1, Finset.sum_le_sum fun i _ => (product i).2⟩

theorem fir_within (h : History) (lo hi : Int) (cells : ∀ i : Fin 11, lo ≤ h[i].toInt ∧ h[i].toInt ≤ hi) :
    lo ≤ fir h ∧ fir h ≤ hi := by
  have := acc_within h lo hi cells
  have := fir_bounds h
  omega

theorem sample_range (x : Sample) : -2 ^ 31 ≤ x.toInt ∧ x.toInt ≤ 2 ^ 31 - 1 :=
  ⟨x.le_toInt, Int.le_sub_one_of_lt x.toInt_lt⟩

/-- The accumulator fits 41 bits (42_fir_filter.md R176). -/
theorem acc_range (h : History) : -2 ^ 40 ≤ acc h ∧ acc h ≤ 512 * (2 ^ 31 - 1) :=
  acc_within h _ _ fun i => sample_range h[i]

/-- The output fits the 32-bit register it is read from (42_fir_filter.md R175). -/
theorem toInt_ofInt_fir (h : History) : (BitVec.ofInt 32 (fir h)).toInt = fir h := by
  obtain ⟨lo, hi⟩ := fir_within h _ _ fun i => sample_range h[i]
  exact BitVec.toInt_ofInt_eq_self (by decide) lo (Int.lt_of_le_sub_one hi)

/-- The division as the hardware does it, on the accumulator's 41-bit word (42_fir_filter.md R176). -/
theorem fir_eq_sshiftRight (h : History) : fir h = ((BitVec.ofInt 41 (acc h)).sshiftRight 9).toInt := by
  obtain ⟨lo, hi⟩ := acc_range h
  have word : (BitVec.ofInt 41 (acc h)).toInt = acc h := BitVec.toInt_ofInt_eq_self (by decide) lo (by omega)
  rw [BitVec.toInt_sshiftRight, word, Int.shiftRight_eq_div_pow]
  exact Int.fdiv_eq_ediv_of_nonneg _ (by decide)

/-- The word read from a filter output is the floor of the weighted sum over 512 (42_fir_filter.md R173). -/
theorem filterWord_bounds (h : History) :
    512 * (wrap 32 (fir h)).toInt ≤ weightedSum h ∧ weightedSum h < 512 * (wrap 32 (fir h)).toInt + 512 := by
  rw [wrap, toInt_ofInt_fir, ← acc_eq_weightedSum]
  exact fir_bounds h

/-! ### The statements -/

/-- Settles O19: the register's word is the output of its history, without loss in 32 bits. -/
theorem readReturnsTheFilterOutput : Obligations.ReadReturnsTheFilterOutput := fun s =>
  ⟨⟨_, exec_read_data s .rateFilt _ _ rfl rfl, filterWord_bounds s.block.rateHist⟩,
    ⟨_, exec_read_data s .ifFilt _ _ rfl rfl, filterWord_bounds s.block.ifHist⟩⟩

/-- Settles O35: reversal permutes the products of the sum. -/
theorem filterIsSymmetric : Obligations.FilterIsSymmetric :=
  ⟨kernel_symmetric, fun h => by rw [fir, acc_reverse, fir]⟩

/-- Settles O36: the output is a mean of the cells, with weights that are not negative. -/
theorem filterOutputLiesWithinTheCells : Obligations.FilterOutputLiesWithinTheCells :=
  ⟨fir_within, toInt_ofInt_fir⟩

/-- Settles O37: the extreme cells bound the accumulator, and its 41-bit word loses nothing. -/
theorem accumulatorFitsFortyOneBits : Obligations.AccumulatorFitsFortyOneBits := by
  intro h
  obtain ⟨lo, hi⟩ := acc_range h
  exact ⟨acc_eq_weightedSum h, lo, hi, fir_eq_sshiftRight h⟩

/-- Settles O34: a sample of 32 bits is kept whole by the newest cell. -/
theorem pushShiftsTheHistory : Obligations.PushShiftsTheHistory := fun h v lo hi =>
  push_sample h v lo (Int.lt_of_le_sub_one hi)

end Sys2Proof.Machine
end

section
/-! PROOFS. The controller: the cooldown, the evaluation frame and the codes it moves, and the run of frames that counts the cooldown
(43_controller.md R190 to R204). -/

open Sys2Proof
namespace Sys2Proof.Machine

/-! ### A frame between evaluations -/

/-- Between evaluations no code moves (43_controller.md R204). -/
theorem consumeReport_between_codes (p : FinePolicy) (b : Block) (processed : b.pendReport.ovf = false)
    (counting : b.cooldown.toNat + 1 ≠ b.updateRate.toNat) :
    (consumeReport p b).fine = b.fine ∧ (consumeReport p b).txCode = b.txCode ∧ (consumeReport p b).rxCode = b.rxCode := by
  rw [consumeReport_between p b processed counting]
  exact ⟨rfl, rfl, rfl⟩

theorem consumeReport_between_lastEv (p : FinePolicy) (b : Block) (processed : b.pendReport.ovf = false)
    (counting : b.cooldown.toNat + 1 ≠ b.updateRate.toNat) :
    (consumeReport p b).lastEv.eval = false ∧ (consumeReport p b).lastEv.fineAct = .none
      ∧ (consumeReport p b).lastEv.loAct = .none := by
  rw [consumeReport_between p b processed counting]
  exact ⟨rfl, rfl, rfl⟩

/-- Settles O44: a frame that only counts gives the verdicts of no comparison. -/
theorem noCodeChangesBetweenEvaluations : Obligations.NoCodeChangesBetweenEvaluations := by
  intro s rest due processed counting
  obtain ⟨fine, tx, rx⟩ := consumeReport_between_codes Config.finePolicy s.block processed counting
  exact ⟨_, step_engineDue s rest due, fine, tx, rx, consumeReport_between_lastEv _ _ processed counting⟩

/-! ### An evaluation frame -/

section Evaluation
variable (p : FinePolicy) (b : Block) (processed : b.pendReport.ovf = false)
  (reached : b.cooldown.toNat + 1 = b.updateRate.toNat)
include processed reached

/-- The rate comparison sees the history after this frame's push (43_controller.md R192). -/
theorem consumeReport_evaluation_fineAct :
    (consumeReport p b).lastEv.fineAct = rateVerdict (fir (consumeReport p b).rateHist) := by
  rw [consumeReport_evaluation p b processed reached]
  rfl

/-- The verdict that is recorded is the one that moves the fine code (43_controller.md R196). -/
theorem consumeReport_evaluation_fine :
    (consumeReport p b).fine = applyFine p (consumeReport p b).lastEv.fineAct b.fine := by
  rw [consumeReport_evaluation p b processed reached]
  rfl

/-- The IF comparison sees the history after this frame's push (43_controller.md R193). -/
theorem consumeReport_evaluation_loAct :
    (consumeReport p b).lastEv.loAct = ifVerdict (fir (consumeReport p b).ifHist) := by
  rw [consumeReport_evaluation p b processed reached]
  rfl

theorem consumeReport_evaluation_txCode :
    (consumeReport p b).txCode = stepChannel (verdictStep (consumeReport p b).lastEv.loAct) b.activeCh b.txCode := by
  rw [consumeReport_evaluation p b processed reached]
  rfl

theorem consumeReport_evaluation_rxCode :
    (consumeReport p b).rxCode = stepChannel (verdictStep (consumeReport p b).lastEv.loAct) b.activeCh b.rxCode := by
  rw [consumeReport_evaluation p b processed reached]
  rfl

end Evaluation

/-- Settles O42: in each band of the filtered rate the verdict is known, and the fine code follows the verdict. -/
theorem fineCodeFollowsTheFilteredRate : Obligations.FineCodeFollowsTheFilteredRate := by
  intro s rest due processed reached
  refine ⟨_, step_engineDue s rest due, ?_⟩
  have verdict := consumeReport_evaluation_fineAct Config.finePolicy s.block processed reached
  rw [consumeReport_evaluation_fine _ _ processed reached]
  refine ⟨fun above => ?_, fun below => ?_, fun lo hi => ?_⟩
  · rw [verdict, rateVerdict_inc _ above]
    exact ⟨rfl, applyFine_inc _ _⟩
  · rw [verdict, rateVerdict_dec _ below]
    exact ⟨rfl, applyFine_dec _ _⟩
  · rw [verdict, rateVerdict_none _ lo hi]
    exact ⟨rfl, by cases Config.finePolicy <;> rfl⟩

/-- Settles O43: in each band of the filtered IF the verdict is known, and both codes of the active channel take its step. -/
theorem loCodesFollowTheFilteredIf : Obligations.LoCodesFollowTheFilteredIf := by
  intro s rest due processed reached
  refine ⟨_, step_engineDue s rest due, ?_⟩
  have verdict := consumeReport_evaluation_loAct Config.finePolicy s.block processed reached
  rw [consumeReport_evaluation_txCode _ _ processed reached, consumeReport_evaluation_rxCode _ _ processed reached]
  refine ⟨fun above => ?_, fun below => ?_, fun lo hi => ?_, fun c other => ?_⟩
  · rw [verdict, ifVerdict_inc _ above]
    refine ⟨rfl, fun c active => ?_⟩
    rw [stepChannel_active _ _ _ c active, stepChannel_active _ _ _ c active]
    exact ⟨stepCode_inc _, stepCode_inc _⟩
  · rw [verdict, ifVerdict_dec _ below]
    refine ⟨rfl, fun c active => ?_⟩
    rw [stepChannel_active _ _ _ c active, stepChannel_active _ _ _ c active]
    exact ⟨stepCode_dec _, stepCode_dec _⟩
  · rw [verdict, ifVerdict_none _ lo hi]
    exact ⟨rfl, stepChannel_none _ _, stepChannel_none _ _⟩
  · exact ⟨stepChannel_other _ _ _ c other, stepChannel_other _ _ _ c other⟩

/-! ### Who may change a code -/

theorem consumeReport_coarse (p : FinePolicy) (b : Block) : (consumeReport p b).coarse = b.coarse := by
  rcases consumeReport_cases p b with ⟨_, e⟩ | ⟨_, e⟩ <;> rw [e]
  · rfl
  · exact processFrame_coarse ..

/-- A step of ENGINE leaves the codes, or it is on an evaluation frame (43_controller.md R191). -/
theorem consumeReport_codes (p : FinePolicy) (b : Block) :
    ((consumeReport p b).fine = b.fine ∧ (consumeReport p b).txCode = b.txCode ∧ (consumeReport p b).rxCode = b.rxCode)
      ∨ (b.pendReport.ovf = false ∧ b.cooldown.toNat + 1 = b.updateRate.toNat) := by
  rcases consumeReport_cases p b with ⟨_, e⟩ | ⟨processed, _⟩
  · rw [e]
    exact .inl ⟨rfl, rfl, rfl⟩
  · by_cases reached : b.cooldown.toNat + 1 = b.updateRate.toNat
    · exact .inr ⟨processed, reached⟩
    · exact .inl (consumeReport_between_codes p b processed reached)

/-- Settles O50: only reset and the ENGINE step touch the codes. -/
theorem codesChangeOnlyOnEvaluationOrReset : Obligations.CodesChangeOnlyOnEvaluationOrReset := by
  intro s t h
  have effect := step_effect s t h
  generalize t.block = b at effect
  cases effect with
  | reset due => exact .inl ⟨due, rfl⟩
  | consumed due =>
    exact .inr ⟨consumeReport_coarse _ _, (consumeReport_codes _ _).imp_right fun evaluation => ⟨due, evaluation⟩⟩
  | unchanged | failed | acknowledged | accepted | rate | channel => exact .inr ⟨rfl, .inl ⟨rfl, rfl, rfl⟩⟩

/-! ### The cooldown -/

/-- A processed frame counts modulo `UPDATE_RATE` in a state that a run reaches (43_controller.md R190, R195). -/
theorem consumeReport_cooldown (p : FinePolicy) (b : Block) (processed : b.pendReport.ovf = false)
    (below : b.cooldown.toNat < b.updateRate.toNat) :
    (consumeReport p b).cooldown.toNat = (b.cooldown.toNat + 1) % b.updateRate.toNat := by
  by_cases reached : b.cooldown.toNat + 1 = b.updateRate.toNat
  · rw [consumeReport_evaluation p b processed reached, reached, Nat.mod_self]
    rfl
  · have counted : (b.cooldown + 1).toNat = b.cooldown.toNat + 1 := by
      have := b.updateRate.isLt
      bv_omega
    rw [consumeReport_between p b processed reached, Nat.mod_eq_of_lt (by omega)]
    exact counted

/-- `EVAL` marks the evaluation frame (10_state.md R52). -/
theorem consumeReport_eval (p : FinePolicy) (b : Block) (processed : b.pendReport.ovf = false) :
    (consumeReport p b).lastEv.eval = true ↔ b.cooldown.toNat + 1 = b.updateRate.toNat := by
  by_cases reached : b.cooldown.toNat + 1 = b.updateRate.toNat
  · rw [consumeReport_evaluation p b processed reached]
    exact iff_of_true rfl reached
  · obtain ⟨eval, _⟩ := consumeReport_between_lastEv p b processed reached
    simp [eval, reached]

/-- Settles O41: the frame that would bring the cooldown to `UPDATE_RATE` evaluates and clears it, and every other frame counts. -/
theorem cooldownCountsProcessedFrames : Obligations.CooldownCountsProcessedFrames := by
  intro s rest due processed ⟨⟨_, below⟩, _⟩
  exact ⟨_, step_engineDue s rest due, consumeReport_cooldown _ _ processed below, consumeReport_eval _ _ processed⟩

/-! ### A run of frames -/

/-- The state after a FRAME and the ENGINE step that consumes its report, with `rest` still to come. -/
def afterFrame (rep : FrameReport) (rest : List Turn) (s : State) : State where
  block := consumeReport Config.finePolicy (acceptReport rep s.block)
  turns := rest
  responses := s.responses ++ [0]

theorem run_frame (rep : FrameReport) (rest : List Turn) (s : State) (k : Nat)
    (turns : s.turns = .host (encode (.frame rep)) :: .engine :: rest) :
    Host.Core.run Sys2Proof.core (k + 2) s = Host.Core.run Sys2Proof.core k (afterFrame rep rest s) := by
  have sent := hostStepRunsTheDecodedCommand s _ _ _ turns (decodeInvertsEncode (.frame rep))
  rw [exec_frame] at sent
  have consumed := step_engineDue { s with
    block := acceptReport rep s.block, turns := .engine :: rest, responses := s.responses ++ [0] } rest ⟨rfl, rfl⟩
  exact (run_succ Sys2Proof.core (k + 1) _ _ sent).trans (run_succ Sys2Proof.core k _ _ consumed)

section AfterFrame
variable (rep : FrameReport) (rest : List Turn) (s : State)

theorem afterFrame_inv (inv : s.Inv) : (afterFrame rep rest s).Inv := consumeReport_inv _ (acceptReport rep s.block) inv

variable (processed : rep.ovf = false)
include processed

theorem afterFrame_block :
    (afterFrame rep rest s).block = processFrame Config.finePolicy rep s.block.activeCh
      (countFlags rep { acceptReport rep s.block with pendValid := false }) :=
  consumeReport_processed _ (acceptReport rep s.block) processed

theorem afterFrame_pendValid : (afterFrame rep rest s).block.pendValid = false := by
  rw [afterFrame_block rep rest s processed, processFrame_pendValid, countFlags_pendValid]

theorem afterFrame_updateRate : (afterFrame rep rest s).block.updateRate = s.block.updateRate := by
  rw [afterFrame_block rep rest s processed, processFrame_updateRate]
  rfl

/-- A report that finds the slot empty overwrites none (40_frame_intake.md R131). -/
theorem afterFrame_cntDrop (empty : s.block.pendValid = false) : (afterFrame rep rest s).block.cntDrop = s.block.cntDrop := by
  rw [afterFrame_block rep rest s processed, processFrame_cntDrop, countFlags_cntDrop, acceptReport_cntDrop, empty]
  rfl

theorem afterFrame_cntFrames : (afterFrame rep rest s).block.cntFrames = s.block.cntFrames + 1 := by
  rw [afterFrame_block rep rest s processed, processFrame_cntFrames]
  rfl

theorem afterFrame_cooldown (below : s.block.cooldown.toNat < s.block.updateRate.toNat) :
    (afterFrame rep rest s).block.cooldown.toNat = (s.block.cooldown.toNat + 1) % s.block.updateRate.toNat :=
  consumeReport_cooldown _ (acceptReport rep s.block) processed below

end AfterFrame

/-- Settles O58, by induction on the reports: each is one more frame counted, and the cooldown counts modulo `UPDATE_RATE`. -/
theorem cooldownIsTheFrameCountModuloTheRate : Obligations.CooldownIsTheFrameCountModuloTheRate := by
  intro reports
  induction reports with
  | nil =>
    intro s ⟨⟨_, below⟩, _⟩ _ _ turns
    exact ⟨s, rfl, turns, rfl, rfl, (Nat.mod_eq_of_lt below).symm, (BitVec.add_zero _).symm⟩
  | cons rep reports ih =>
    intro s inv empty processed turns
    have ⟨⟨_, below⟩, _⟩ := inv
    obtain ⟨first, others⟩ := List.forall_mem_cons.mp processed
    obtain ⟨t, run, done, rate, drop, cooldown, frames⟩ := ih (afterFrame rep _ s) (afterFrame_inv rep _ s inv)
      (afterFrame_pendValid rep _ s first) others rfl
    rw [afterFrame_updateRate rep _ s first] at rate cooldown
    rw [afterFrame_cntDrop rep _ s first empty] at drop
    rw [afterFrame_cooldown rep _ s first below, Nat.mod_add_mod] at cooldown
    rw [afterFrame_cntFrames rep _ s first] at frames
    refine ⟨t, (run_frame rep _ s _ turns).trans run, done, rate, drop, ?_, ?_⟩
    · rw [cooldown, List.length_cons, Nat.add_right_comm, Nat.add_assoc]
    · rw [frames, List.length_cons, BitVec.ofNat_add, BitVec.add_assoc, BitVec.add_comm 1]
      rfl

end Sys2Proof.Machine
end

section
/-! PROOFS. Register access: what a READ and a WRITE of every address answer, and what they leave as it was
(44_register_access.md R220 to R230). -/

open Sys2Proof
namespace Sys2Proof.Machine

/-! ### READ -/

/-- Settles O16: each of the registers is its own word, or its bits zero-extended. -/
theorem readReturnsThePlainRegisters : Obligations.ReadReturnsThePlainRegisters := by
  intro s b reads
  have plain (r : Reg) : reads (regAddr r) (readReg Config.finePolicy b r) := exec_read s r
  have extended {n : Nat} (r : Reg) (x : BitVec n) (word : readReg Config.finePolicy b r = x.setWidth 32) :
      reads (regAddr r) (BitVec.ofNat 32 x.toNat) :=
    exec_read_data s r _ _ rfl (word.trans (BitVec.ofNat_toNat 32 x).symm)
  exact ⟨plain .id, plain .errInfo, extended .updateRate _ rfl, extended .activeCh _ rfl, extended .cooldown _ rfl,
    extended .fine _ rfl, extended .coarse _ rfl, plain .cntFrames, plain .cntDrop, plain .cntOvf, plain .cntCut,
    plain .cntCrc, plain .cntZlen, plain .cntIfsup⟩

/-- Settles O20: a mapped address has a register, and its READ adds the register's word to the responses. -/
theorem readHasNoSideEffect : Obligations.ReadHasNoSideEffect := by
  intro a s mapped
  obtain ⟨r, reg⟩ := regAt_of_mapped a mapped
  exact ⟨_, exec_read_data s r a _ (regAddr_regAt a r reg) rfl⟩

/-! ### Errors of READ and WRITE -/

/-- An error of READ, with the word recorded written out (60_exceptions.md R262). -/
theorem raiseCmdError_read (c : ErrCause) (a : RegAddr) (s : State) :
    raiseCmdError c (encode (.read a)) s = { s with
      block := { s.block with err := true, errCause := c, errInfo := 0x200000#24 ++ a }
      responses := s.responses ++ [responseWord false ((causeCode c).setWidth 32)] } := by
  rw [← encodeRead_high a]
  rfl

/-- An error of WRITE, with the word recorded written out (60_exceptions.md R262). -/
theorem raiseCmdError_write (c : ErrCause) (a : RegAddr) (d : RegWord) (s : State) :
    raiseCmdError c (encode (.write a d)) s = { s with
      block := { s.block with err := true, errCause := c, errInfo := 0x300000#24 ++ a }
      responses := s.responses ++ [responseWord false ((causeCode c).setWidth 32)] } := by
  rw [← encodeWrite_high a d]
  rfl

theorem exec_read_none (a : RegAddr) (s : State) (hole : regAt a = none) :
    exec (.read a) s = .next (raiseCmdError .unmapped (encode (.read a)) s) := by
  simp only [exec, execRead, hole]

theorem exec_write_none (a : RegAddr) (d : RegWord) (s : State) (hole : regAt a = none) :
    exec (.write a d) s = .next (raiseCmdError .unmapped (encode (.write a d)) s) := by
  simp only [exec, execWrite, hole]

/-- Settles O21: an unmapped address has no register. -/
theorem unmappedAddressRaises : Obligations.UnmappedAddressRaises := by
  intro a d s unmapped
  have hole := (regAt_eq_none_iff a).mpr unmapped
  rw [exec_read_none a s hole, exec_write_none a d s hole, raiseCmdError_read, raiseCmdError_write]
  exact ⟨rfl, rfl⟩

/-! ### WRITE of a register -/

theorem exec_write_error (r : Reg) (d : RegWord) (s : State) (c : ErrCause) (refused : writeReg r d s.block = .error c) :
    exec (.write (regAddr r) d) s = .next (raiseCmdError c (encode (.write (regAddr r) d)) s) := by
  simp only [exec, execWrite, regAt_regAddr, refused]

theorem exec_write_ok (r : Reg) (d : RegWord) (s : State) (b : Block) (taken : writeReg r d s.block = .ok b) :
    exec (.write (regAddr r) d) s = .next { s with block := b, responses := s.responses ++ [0] } := by
  simp only [exec, execWrite, regAt_regAddr, taken]
  rfl

/-- A refused WRITE, with its whole next state written out. -/
theorem exec_write_refused (r : Reg) (d : RegWord) (s : State) (c : ErrCause) (refused : writeReg r d s.block = .error c) :
    exec (.write (regAddr r) d) s = .next { s with
      block := { s.block with err := true, errCause := c, errInfo := 0x300000#24 ++ regAddr r }
      responses := s.responses ++ [responseWord false ((causeCode c).setWidth 32)] } := by
  rw [exec_write_error r d s c refused, raiseCmdError_write]

/-- Settles O23: the acknowledgement is the case of bit 1. -/
theorem writeStatusAcknowledges : Obligations.WriteStatusAcknowledges := fun d s => exec_write_ok .status d s _ rfl

theorem zext_illegalRate_iff (d : RegWord) : zext d < 1 ∨ zext d > 255 ↔ d.toNat = 0 ∨ 256 ≤ d.toNat := by
  simp only [zext]
  omega

theorem writeReg_updateRate_legal (d : RegWord) (b : Block) (lo : 1 ≤ d.toNat) (hi : d.toNat ≤ 255) :
    writeReg .updateRate d b = .ok { b with updateRate := BitVec.ofNat 8 d.toNat, cooldown := 0 } :=
  if_neg (mt (zext_illegalRate_iff d).mp (by omega))

theorem writeReg_updateRate_illegal (d : RegWord) (b : Block) (out : d.toNat = 0 ∨ 256 ≤ d.toNat) :
    writeReg .updateRate d b = .error .illegalValue :=
  if_pos ((zext_illegalRate_iff d).mpr out)

/-- Settles O24: 1 to 255 are the legal rates. -/
theorem writeUpdateRateRestartsCooldown : Obligations.WriteUpdateRateRestartsCooldown := fun d s =>
  ⟨fun lo hi => exec_write_ok .updateRate d s _ (writeReg_updateRate_legal d s.block lo hi),
    fun out => exec_write_refused .updateRate d s _ (writeReg_updateRate_illegal d s.block out)⟩

theorem zext_illegalChannel_iff (d : RegWord) : zext d > 10 ↔ 11 ≤ d.toNat := by
  simp only [zext]
  omega

theorem writeReg_activeCh_legal (d : RegWord) (b : Block) (hi : d.toNat ≤ 10) :
    writeReg .activeCh d b = .ok { b with activeCh := BitVec.ofNat 4 d.toNat } :=
  if_neg (mt (zext_illegalChannel_iff d).mp (by omega))

theorem writeReg_activeCh_illegal (d : RegWord) (b : Block) (out : 11 ≤ d.toNat) :
    writeReg .activeCh d b = .error .illegalValue :=
  if_pos ((zext_illegalChannel_iff d).mpr out)

/-- Settles O25: 0 to 10 are the legal channels. -/
theorem writeActiveChannel : Obligations.WriteActiveChannel := fun d s =>
  ⟨fun hi => exec_write_ok .activeCh d s _ (writeReg_activeCh_legal d s.block hi),
    fun out => exec_write_refused .activeCh d s _ (writeReg_activeCh_illegal d s.block out)⟩

theorem writeReg_readOnly (r : Reg) (d : RegWord) (b : Block) (notStatus : r ≠ .status) (notRate : r ≠ .updateRate)
    (notChannel : r ≠ .activeCh) : writeReg r d b = .error .readOnly := by
  cases r
  case status => exact absurd rfl notStatus
  case updateRate => exact absurd rfl notRate
  case activeCh => exact absurd rfl notChannel
  all_goals rfl

/-- Settles O26: the register of such an address is none of the three writable ones. -/
theorem readOnlyRegistersRefuseWrites : Obligations.ReadOnlyRegistersRefuseWrites := by
  intro a d s mapped notStatus notRate notChannel
  obtain ⟨r, reg⟩ := regAt_of_mapped a mapped
  obtain rfl := regAddr_regAt a r reg
  have other (w : Reg) (ne : regAddr r ≠ regAddr w) : r ≠ w := fun same => ne (congrArg regAddr same)
  exact exec_write_refused r d s _
    (writeReg_readOnly r d s.block (other .status notStatus) (other .updateRate notRate) (other .activeCh notChannel))

/-! ### The frame of WRITE -/

/-- A WRITE raises an error, or it is of a register that takes the datum. -/
theorem exec_write_cases (a : RegAddr) (d : RegWord) (s : State) :
    (∃ c, exec (.write a d) s = .next (raiseCmdError c (encode (.write a d)) s))
      ∨ ∃ r b, regAddr r = a ∧ writeReg r d s.block = .ok b
        ∧ exec (.write a d) s = .next { s with block := b, responses := s.responses ++ [0] } := by
  cases reg : regAt a with
  | none => exact .inl ⟨_, exec_write_none a d s reg⟩
  | some r =>
    obtain rfl := regAddr_regAt a r reg
    cases result : writeReg r d s.block with
    | error c => exact .inl ⟨c, exec_write_error r d s c result⟩
    | ok b => exact .inr ⟨r, b, rfl, result, exec_write_ok r d s b result⟩

/-- The registers that a WRITE of an address may change between two blocks (44_register_access.md R224 to R226). -/
def WriteFrame (a : RegAddr) (b b' : Block) : Prop :=
  b' = { b with
      err := b'.err, errCause := b'.errCause, errInfo := b'.errInfo
      updateRate := b'.updateRate, cooldown := b'.cooldown, activeCh := b'.activeCh }
    ∧ (a ≠ 0x04 → b'.updateRate = b.updateRate ∧ b'.cooldown = b.cooldown)
    ∧ (a ≠ 0x05 → b'.activeCh = b.activeCh)

/-- A change of the error status alone is within the frame of every address. -/
theorem writeFrame_errorStatus (a : RegAddr) (b : Block) (err : Bool) (cause : ErrCause) (info : RegWord) :
    WriteFrame a b { b with err := err, errCause := cause, errInfo := info } :=
  ⟨rfl, fun _ => ⟨rfl, rfl⟩, fun _ => rfl⟩

/-- A register that takes the datum changes only what its own address may change. -/
theorem writeReg_writeFrame (r : Reg) (d : RegWord) (b b' : Block) (taken : writeReg r d b = .ok b') :
    WriteFrame (regAddr r) b b' := by
  rcases writeReg_cases r d b with ⟨c, _, e⟩ | ⟨rfl, e⟩ | ⟨rfl, _, _, e⟩ | ⟨rfl, _, e⟩
  all_goals rw [e] at taken
  case inl => cases taken
  all_goals obtain rfl := Except.ok.inj taken
  case inr.inl =>
    unfold writeStatus
    split
    · exact writeFrame_errorStatus _ b _ _ _
    · exact writeFrame_errorStatus _ b b.err b.errCause b.errInfo
  case inr.inr.inl => exact ⟨rfl, fun ne => absurd rfl ne, fun _ => rfl⟩
  case inr.inr.inr => exact ⟨rfl, fun _ => ⟨rfl, rfl⟩, fun ne => absurd rfl ne⟩

/-- Settles O27: an error changes the error status alone, and a register that takes the datum keeps its frame. -/
theorem writeLeavesTheRestAlone : Obligations.WriteLeavesTheRestAlone := by
  intro a d s
  rcases exec_write_cases a d s with ⟨c, e⟩ | ⟨r, b, rfl, taken, e⟩
  · exact ⟨_, e, rfl, ⟨_, rfl⟩, writeFrame_errorStatus a s.block _ _ _⟩
  · exact ⟨_, e, rfl, ⟨_, rfl⟩, writeReg_writeFrame r d s.block b taken⟩

end Sys2Proof.Machine
end

section
/-! PROOFS. The control commands NOP and SRESET: their meanings, and the one word that each opcode allows
(45_control.md R250, R251; 30_encoding.md R107). -/

open Sys2Proof
namespace Sys2Proof.Machine

/-- A word with nothing below its opcode is determined by the opcode. -/
theorem low_eq_zero_iff (w : CmdWord) (op : BitVec 4) (opcode : opField w = op) :
    w.extractLsb' 0 60 = 0 ↔ w = op ++ 0#60 := by
  constructor
  · intro low
    calc w
      _ = opField w ++ w.extractLsb' 0 60 := split_control w
      _ = op ++ 0#60 := by rw [opcode, low]; rfl
  · rintro rfl
    exact BitVec.extractLsb'_append_eq_right

/-- The zero word is the one command of NOP's opcode. -/
theorem decode_opcode0 (w : CmdWord) (op : opField w = 0) :
    decode w = if w = 0 then .ok .nop else .error .reservedBits := by
  rcases decode_cases w with ⟨_, e⟩ | ⟨other, _⟩ | ⟨other, _⟩ | ⟨other, _⟩ | ⟨other, _⟩ | ⟨other, _⟩
  case inl => exact e.trans (if_congr (low_eq_zero_iff w 0 op) rfl rfl)
  all_goals simp [op] at other

/-- SRESET's opcode alone is the one command with that opcode. -/
theorem decode_opcode4 (w : CmdWord) (op : opField w = 4) :
    decode w = if w = 0x4000000000000000 then .ok .sreset else .error .reservedBits := by
  rcases decode_cases w with ⟨other, _⟩ | ⟨other, _⟩ | ⟨other, _⟩ | ⟨other, _⟩ | ⟨_, e⟩ | ⟨other, _⟩
  case inr.inr.inr.inr.inl => exact e.trans (if_congr (low_eq_zero_iff w 4 op) rfl rfl)
  all_goals simp [op] at other

theorem exec_nop (s : State) : exec .nop s = .next { s with responses := s.responses ++ [0] } := rfl

theorem exec_sreset (s : State) :
    exec .sreset s = .next { s with block := Block.reset, responses := s.responses ++ [0] } := rfl

theorem hostTurn_of_decode_error (w : CmdWord) (s : State) (e : DecodeError) (bad : decode w = .error e) :
    hostTurn w s = .next (raiseCmdError (decodeCause e) w s) := by
  rw [hostTurn, bad]
  rfl

/-- Settles O14: NOP only responds, and a word below 2^60 has opcode 0. -/
theorem nopOnlyResponds : Obligations.NopOnlyResponds := by
  refine ⟨exec_nop, fun w below => decode_opcode0 w (BitVec.eq_of_toNat_eq ?_)⟩
  rw [opField_toNat, Nat.div_eq_of_lt below]
  rfl

/-- Settles O28: SRESET loads the reset block, and every other word of its opcode raises RESERVED_BITS. -/
theorem sresetRestoresTheResetBlock : Obligations.SresetRestoresTheResetBlock := by
  have decoded (w : CmdWord) (opcode : w.toNat / 2 ^ 60 = 4) :=
    decode_opcode4 w (BitVec.eq_of_toNat_eq ((opField_toNat w).trans opcode))
  refine ⟨exec_sreset, decoded, fun s w rest turns opcode other => ?_⟩
  have bad : decode w = .error .reservedBits := (decoded w opcode).trans (if_neg other)
  exact (step_host s w rest turns).trans (hostTurn_of_decode_error w _ _ bad)

end Sys2Proof.Machine
end

section
/-! PROOFS. Command errors: a step runs the same whatever the error status is, which error a command word reports, and what
an error writes (60_exceptions.md R262 to R264). -/

open Sys2Proof
namespace Sys2Proof.Machine

/-! ### Another error status -/

/-- The block with another error status. -/
def Block.withErrorStatus (b : Block) (e : Bool) (c : ErrCause) (info : RegWord) : Block :=
  { b with err := e, errCause := c, errInfo := info }

/-- Two blocks that differ in the error status at most. -/
def SameButErrorStatus (b b' : Block) : Prop :=
  b' = b.withErrorStatus b'.err b'.errCause b'.errInfo

/-- Two steps go on and end alike but for the error status, and with the same responses if `blind` holds. -/
def EndAlike (blind : Prop) (o o' : Host.Outcome State Fault Refusal) : Prop :=
  ∃ t t', o = .next t ∧ o' = .next t' ∧ t'.turns = t.turns ∧ SameButErrorStatus t.block t'.block
    ∧ (blind → t'.responses = t.responses)

theorem EndAlike.mono {blind blind' : Prop} {o o' : Host.Outcome State Fault Refusal} (alike : EndAlike blind o o')
    (weaker : blind' → blind) : EndAlike blind' o o' := by
  obtain ⟨t, t', first, second, turns, block, responses⟩ := alike
  exact ⟨t, t', first, second, turns, block, responses ∘ weaker⟩

section AnyStatus
variable (e : Bool) (c : ErrCause) (info : RegWord)

/-- The controller neither reads nor writes the error status. -/
theorem controllerStep_withErrorStatus (p : FinePolicy) (ch : BitVec 4) (b : Block) :
    controllerStep p ch (b.withErrorStatus e c info)
      = { controllerStep p ch b with block := (controllerStep p ch b).block.withErrorStatus e c info } := by
  by_cases reached : zext b.cooldown + 1 = zext b.updateRate
  · rw [show controllerStep p ch b = evaluate p ch b from if_pos reached]
    exact if_pos reached
  · rw [show controllerStep p ch b = ⟨{ b with cooldown := wrap 8 (zext b.cooldown + 1) }, false, .none, .none⟩ from
      if_neg reached]
    exact if_neg reached

theorem processFrame_withErrorStatus (p : FinePolicy) (rep : FrameReport) (ch : BitVec 4) (b : Block) :
    processFrame p rep ch (b.withErrorStatus e c info) = (processFrame p rep ch b).withErrorStatus e c info := by
  have sameSamples : takeSamples (estimate rep) (b.withErrorStatus e c info)
      = (takeSamples (estimate rep) b).withErrorStatus e c info := rfl
  simp only [processFrame, sameSamples, controllerStep_withErrorStatus]
  rfl

/-- The ENGINE step neither reads nor writes the error status (40_frame_intake.md R134). -/
theorem consumeReport_withErrorStatus (p : FinePolicy) (b : Block) :
    consumeReport p (b.withErrorStatus e c info) = (consumeReport p b).withErrorStatus e c info := by
  cases ovf : b.pendReport.ovf with
  | true =>
    rw [consumeReport_discarded p b ovf]
    exact consumeReport_discarded p _ ovf
  | false =>
    rw [consumeReport_processed p b ovf, ← processFrame_withErrorStatus]
    exact consumeReport_processed p _ ovf

theorem engineTurn_withErrorStatus (p : FinePolicy) (s : State) :
    engineTurn p { s with block := s.block.withErrorStatus e c info }
      = { engineTurn p s with block := (engineTurn p s).block.withErrorStatus e c info } := by
  cases full : s.block.pendValid with
  | true =>
    rw [engineTurn_full p s full, ← consumeReport_withErrorStatus]
    exact engineTurn_full p _ full
  | false =>
    rw [engineTurn_empty p s full]
    exact engineTurn_empty p _ full

/-- `STATUS` and `ERRINFO` are the registers that show the error status (60_exceptions.md R264). -/
theorem readReg_withErrorStatus (p : FinePolicy) (b : Block) (r : Reg) (notStatus : r ≠ .status) (notInfo : r ≠ .errInfo) :
    readReg p (b.withErrorStatus e c info) r = readReg p b r := by
  cases r
  case status => exact absurd rfl notStatus
  case errInfo => exact absurd rfl notInfo
  all_goals rfl

/-- A WRITE is refused with the same error under both statuses, or taken under both with the same effect. -/
theorem writeReg_withErrorStatus (r : Reg) (d : RegWord) (b : Block) :
    (∃ cause, writeReg r d b = .error cause ∧ writeReg r d (b.withErrorStatus e c info) = .error cause)
      ∨ ∃ t t', writeReg r d b = .ok t ∧ writeReg r d (b.withErrorStatus e c info) = .ok t' ∧ SameButErrorStatus t t' := by
  cases r
  case status =>
    refine .inr ⟨_, _, rfl, rfl, ?_⟩
    unfold writeStatus
    split <;> rfl
  case updateRate =>
    by_cases out : d.toNat = 0 ∨ 256 ≤ d.toNat
    · exact .inl ⟨_, writeReg_updateRate_illegal d _ out, writeReg_updateRate_illegal d _ out⟩
    · exact .inr ⟨_, _, writeReg_updateRate_legal d _ (by omega) (by omega),
        writeReg_updateRate_legal d _ (by omega) (by omega), rfl⟩
  case activeCh =>
    by_cases out : 11 ≤ d.toNat
    · exact .inl ⟨_, writeReg_activeCh_illegal d _ out, writeReg_activeCh_illegal d _ out⟩
    · exact .inr ⟨_, _, writeReg_activeCh_legal d _ (by omega), writeReg_activeCh_legal d _ (by omega), rfl⟩
  all_goals exact .inl ⟨.readOnly, rfl, rfl⟩

/-- An error is raised alike: it overwrites the error status (60_exceptions.md R265). -/
theorem raiseCmdError_endAlike (blind : Prop) (cause : ErrCause) (w : CmdWord) (s : State) :
    EndAlike blind (.next (raiseCmdError cause w s))
      (.next (raiseCmdError cause w { s with block := s.block.withErrorStatus e c info })) :=
  ⟨_, _, rfl, rfl, rfl, rfl, fun _ => rfl⟩

/-- A command runs alike, and responds alike unless it reads the error status. -/
theorem exec_endAlike (i : Instr) (s : State) :
    EndAlike (i ≠ .read (regAddr .status) ∧ i ≠ .read (regAddr .errInfo)) (exec i s)
      (exec i { s with block := s.block.withErrorStatus e c info }) := by
  cases i with
  | nop | frame | sreset => exact ⟨_, _, rfl, rfl, rfl, rfl, fun _ => rfl⟩
  | read a =>
    cases reg : regAt a with
    | none =>
      rw [exec_read_none a _ reg, exec_read_none a _ reg]
      exact raiseCmdError_endAlike e c info _ _ _ s
    | some r =>
      obtain rfl := regAddr_regAt a r reg
      refine ⟨_, _, exec_read s r, exec_read _ r, rfl, rfl, fun ⟨notStatus, notInfo⟩ => ?_⟩
      simp only [readReg_withErrorStatus e c info _ s.block r (fun same => notStatus (by rw [same]))
        (fun same => notInfo (by rw [same]))]
  | write a d =>
    cases reg : regAt a with
    | none =>
      rw [exec_write_none a d _ reg, exec_write_none a d _ reg]
      exact raiseCmdError_endAlike e c info _ _ _ s
    | some r =>
      obtain rfl := regAddr_regAt a r reg
      rcases writeReg_withErrorStatus e c info r d s.block with ⟨cause, refused, refused'⟩ | ⟨t, t', taken, taken', same⟩
      · rw [exec_write_error r d s cause refused, exec_write_error r d _ cause refused']
        exact raiseCmdError_endAlike e c info _ _ _ s
      · exact ⟨_, _, exec_write_ok r d s t taken, exec_write_ok r d _ t' taken', rfl, same, fun _ => rfl⟩

theorem hostTurn_endAlike (w : CmdWord) (s : State) :
    EndAlike (w ≠ 0x2000000200000000 ∧ w ≠ 0x2000000300000000) (hostTurn w s)
      (hostTurn w { s with block := s.block.withErrorStatus e c info }) := by
  cases decoded : decode w with
  | error bad =>
    rw [hostTurn_of_decode_error w _ bad decoded, hostTurn_of_decode_error w _ bad decoded]
    exact raiseCmdError_endAlike e c info _ _ w s
  | ok i =>
    rw [hostTurn_of_decode w _ i decoded, hostTurn_of_decode w _ i decoded, ← encode_of_decode w i decoded]
    refine (exec_endAlike e c info i s).mono fun ⟨notStatus, notInfo⟩ => ⟨?_, ?_⟩
    · rintro rfl
      exact notStatus rfl
    · rintro rfl
      exact notInfo rfl

theorem step_endAlike (s : State) :
    EndAlike ((∀ rest, s.turns ≠ .host 0x2000000200000000 :: rest) ∧ ∀ rest, s.turns ≠ .host 0x2000000300000000 :: rest)
      (step s) (step { s with block := s.block.withErrorStatus e c info }) := by
  have engine (blind : Prop) (s : State) : EndAlike blind (.next (engineTurn Config.finePolicy s))
      (.next (engineTurn Config.finePolicy { s with block := s.block.withErrorStatus e c info })) := by
    rw [engineTurn_withErrorStatus]
    exact ⟨_, _, rfl, rfl, rfl, rfl, fun _ => rfl⟩
  obtain ⟨b, turns, responses⟩ := s
  cases turns with
  | nil =>
    rw [step_usedUp _ rfl, step_usedUp _ rfl]
    exact engine _ ⟨b, [], responses⟩
  | cons turn rest =>
    cases turn with
    | engine =>
      rw [step_engine _ rest rfl, step_engine _ rest rfl]
      exact engine _ ⟨b, rest, responses⟩
    | rst =>
      rw [step_rst _ rest rfl, step_rst _ rest rfl]
      exact ⟨_, _, rfl, rfl, rfl, rfl, fun _ => rfl⟩
    | host w =>
      rw [step_host _ w rest rfl, step_host _ w rest rfl]
      refine (hostTurn_endAlike e c info w ⟨b, rest, responses⟩).mono fun ⟨notStatus, notInfo⟩ => ⟨?_, ?_⟩
      · rintro rfl
        exact notStatus rest rfl
      · rintro rfl
        exact notInfo rest rfl

end AnyStatus

/-- Settles O53: no turn reads the error status but a READ of one of its two registers. -/
theorem errorStatusBlocksNothing : Obligations.ErrorStatusBlocksNothing := by
  intro s t e c info stepped
  obtain ⟨u, t', first, second, turns, block, responses⟩ := step_endAlike e c info s
  obtain rfl := Host.Outcome.next.inj (first.symm.trans stepped)
  exact ⟨t', second, turns, block, fun notStatus notInfo => responses ⟨notStatus, notInfo⟩⟩

/-! ### What an error writes -/

/-- A HOST turn raises an error for its word, or goes on with an ok response. -/
theorem hostTurn_raises_or_answers (w : CmdWord) (s : State) :
    (∃ c, c ≠ ErrCause.none ∧ hostTurn w s = .next (raiseCmdError c w s))
      ∨ ∃ b data, hostTurn w s = .next { s with block := b, responses := s.responses ++ [responseWord true data] } := by
  rcases hostTurn_cases w s with ⟨i, decoded, run⟩ | ⟨bad, _, run⟩ <;> rw [run]
  · rcases exec_cases i s with ⟨c, named, raised⟩ | ⟨b, data, answered, _⟩
    · exact .inl ⟨c, named, by rw [raised, encode_of_decode w i decoded]⟩
    · exact .inr ⟨b, data, answered⟩
  · exact .inl ⟨_, by cases bad <;> decide, rfl⟩

/-- The FAIL bit of a response (30_encoding.md R110). -/
theorem responseWord_fail (ok : Bool) (data : RegWord) : (responseWord ok data).getLsbD 32 = !ok := by
  rw [responseWord, BitVec.getLsbD_append, if_neg (by decide), BitVec.getLsbD_append, if_pos (by decide)]
  simp

/-- Settles O13: a response says FAIL only if its turn raised an error, and that is the one operation of R262. -/
theorem failedCommandWritesOnlyTheErrorStatus : Obligations.FailedCommandWritesOnlyTheErrorStatus := by
  intro s t w r rest turns stepped responses fail
  rw [step_host s w rest turns] at stepped
  rcases hostTurn_raises_or_answers w { s with turns := rest } with ⟨c, named, e⟩ | ⟨b, data, e⟩
  all_goals
    obtain rfl := Host.Outcome.next.inj (e.symm.trans stepped)
    obtain rfl := List.singleton_inj.mp (List.append_cancel_left responses)
  · exact ⟨c, named, rfl, rfl⟩
  · rw [responseWord_fail] at fail
    cases fail

/-! ### Which error a word reports -/

/-- `RSVMASK` by opcode (30_encoding.md R107). -/
theorem reservedMask_eq (op : BitVec 4) : reservedMask op =
    if op.toNat = 1 then 0x0800000000000000 else if op.toNat = 2 then 0x0FFFFF00FFFFFFFF
    else if op.toNat = 3 then 0x0FFFFF0000000000 else 0x0FFFFFFFFFFFFFFF := by
  revert op
  decide

section Clauses
variable (w : CmdWord) (s : State)

theorem hostTurn_illegalOp (illegal : 5 ≤ (opField w).toNat) :
    hostTurn w s = .next (raiseCmdError .illegalOp w s) :=
  hostTurn_of_decode_error w s .illegalOp (if_pos illegal)

theorem hostTurn_reservedBits (legal : ¬ 5 ≤ (opField w).toNat) (set : w &&& reservedMask (opField w) ≠ 0) :
    hostTurn w s = .next (raiseCmdError .reservedBits w s) :=
  hostTurn_of_decode_error w s .reservedBits ((if_neg legal).trans (if_pos set))

variable (clear : w &&& reservedMask (opField w) = 0)
include clear

theorem decode_read_of_clear (op : opField w = 2) : decode w = .ok (.read (addrField w)) := by
  rw [decode, clear, op]
  rfl

theorem decode_write_of_clear (op : opField w = 3) : decode w = .ok (.write (addrField w) (dataField w)) := by
  rw [decode, clear, op]
  rfl

theorem hostTurn_unmapped (access : opField w = 2 ∨ opField w = 3) (unmapped : unmappedAddr (addrField w)) :
    hostTurn w s = .next (raiseCmdError .unmapped w s) := by
  have hole := (regAt_eq_none_iff _).mpr unmapped
  rcases access with op | op
  · have decoded := decode_read_of_clear w clear op
    rw [hostTurn_of_decode w s _ decoded, exec_read_none _ s hole, encode_of_decode w _ decoded]
  · have decoded := decode_write_of_clear w clear op
    rw [hostTurn_of_decode w s _ decoded, exec_write_none _ _ s hole, encode_of_decode w _ decoded]

/-- A WRITE that its register refuses. -/
theorem hostTurn_refused (op : opField w = 3) (r : Reg) (addr : regAddr r = addrField w) (c : ErrCause)
    (refused : writeReg r (dataField w) s.block = .error c) : hostTurn w s = .next (raiseCmdError c w s) := by
  have decoded := decode_write_of_clear w clear op
  rw [← addr] at decoded
  rw [hostTurn_of_decode w s _ decoded, exec_write_error r _ s c refused, encode_of_decode w _ decoded]

/-- A READ of a mapped address responds ok. -/
theorem hostTurn_read_mapped (op : opField w = 2) (mapped : ¬ unmappedAddr (addrField w)) :
    ∃ data : RegWord, hostTurn w s = .next { s with responses := s.responses ++ [0#32 ++ data] } := by
  obtain ⟨r, reg⟩ := regAt_of_mapped _ ((mappedAddr_iff_not_unmapped _).mpr mapped)
  rw [hostTurn_of_decode w s _ (decode_read_of_clear w clear op)]
  exact ⟨_, exec_read_data s r _ _ (regAddr_regAt _ r reg) rfl⟩

/-- A WRITE that its register takes responds 0. -/
theorem hostTurn_taken (op : opField w = 3) (r : Reg) (addr : regAddr r = addrField w) (b : Block)
    (taken : writeReg r (dataField w) s.block = .ok b) :
    hostTurn w s = .next { s with block := b, responses := s.responses ++ [0] } := by
  have decoded := decode_write_of_clear w clear op
  rw [← addr] at decoded
  rw [hostTurn_of_decode w s _ decoded, exec_write_ok r _ s b taken]

/-- NOP, FRAME and SRESET respond 0. -/
theorem hostTurn_noAccess (legal : ¬ 5 ≤ (opField w).toNat) (notRead : opField w ≠ 2) (notWrite : opField w ≠ 3) :
    ∃ b, hostTurn w s = .next { s with block := b, responses := s.responses ++ [0] } := by
  have others : ∀ op : BitVec 4, ¬ 5 ≤ op.toNat → op ≠ 2 → op ≠ 3 → op = 0 ∨ op = 1 ∨ op = 4 := by decide
  rcases others _ legal notRead notWrite with op | op | op
  · exact ⟨_, (hostTurn_of_decode w s .nop (by rw [decode, clear, op]; rfl)).trans (exec_nop s)⟩
  · exact ⟨_, (hostTurn_of_decode w s (.frame (reportField w)) (by rw [decode, clear, op]; rfl)).trans (exec_frame _ s)⟩
  · exact ⟨_, (hostTurn_of_decode w s .sreset (by rw [decode, clear, op]; rfl)).trans (exec_sreset s)⟩

theorem hostTurn_readOnly (op : opField w = 3) (mapped : ¬ unmappedAddr (addrField w)) (notStatus : addrField w ≠ 0x02)
    (notRate : addrField w ≠ 0x04) (notChannel : addrField w ≠ 0x05) :
    hostTurn w s = .next (raiseCmdError .readOnly w s) := by
  obtain ⟨r, reg⟩ := regAt_of_mapped _ ((mappedAddr_iff_not_unmapped _).mpr mapped)
  have addr := regAddr_regAt _ r reg
  have other (x : Reg) (ne : addrField w ≠ regAddr x) : r ≠ x := fun same => ne (by rw [← addr, same])
  exact hostTurn_refused w s clear op r addr _
    (writeReg_readOnly r _ _ (other .status notStatus) (other .updateRate notRate) (other .activeCh notChannel))

theorem hostTurn_illegalValue (op : opField w = 3)
    (out : addrField w = 0x04 ∧ ((dataField w).toNat < 1 ∨ 255 < (dataField w).toNat)
      ∨ addrField w = 0x05 ∧ 10 < (dataField w).toNat) :
    hostTurn w s = .next (raiseCmdError .illegalValue w s) := by
  rcases out with ⟨addr, out⟩ | ⟨addr, out⟩
  · exact hostTurn_refused w s clear op .updateRate addr.symm _ (writeReg_updateRate_illegal _ _ (by omega))
  · exact hostTurn_refused w s clear op .activeCh addr.symm _ (writeReg_activeCh_illegal _ _ (by omega))

/-- A WRITE of a writable register that is in range responds 0. -/
theorem hostTurn_write_legal (op : opField w = 3)
    (writable : addrField w = 0x02 ∨ addrField w = 0x04 ∨ addrField w = 0x05)
    (inRange : ¬ (addrField w = 0x04 ∧ ((dataField w).toNat < 1 ∨ 255 < (dataField w).toNat)
      ∨ addrField w = 0x05 ∧ 10 < (dataField w).toNat)) :
    ∃ b, hostTurn w s = .next { s with block := b, responses := s.responses ++ [0] } := by
  simp only [not_or, not_and, not_lt] at inRange
  obtain ⟨rate, channel⟩ := inRange
  rcases writable with addr | addr | addr
  · exact ⟨_, hostTurn_taken w s clear op .status addr.symm _ rfl⟩
  · obtain ⟨lo, hi⟩ := rate addr
    exact ⟨_, hostTurn_taken w s clear op .updateRate addr.symm _ (writeReg_updateRate_legal _ _ lo hi)⟩
  · exact ⟨_, hostTurn_taken w s clear op .activeCh addr.symm _ (writeReg_activeCh_legal _ _ (channel addr))⟩

/-- A command to which no clause of R263 applies responds ok. -/
theorem hostTurn_answers (legal : ¬ 5 ≤ (opField w).toNat)
    (noHole : ¬ ((opField w = 2 ∨ opField w = 3) ∧ unmappedAddr (addrField w)))
    (writable : ¬ (opField w = 3 ∧ addrField w ≠ 0x02 ∧ addrField w ≠ 0x04 ∧ addrField w ≠ 0x05))
    (inRange : ¬ (opField w = 3 ∧ (addrField w = 0x04 ∧ ((dataField w).toNat < 1 ∨ 255 < (dataField w).toNat)
      ∨ addrField w = 0x05 ∧ 10 < (dataField w).toNat))) :
    ∃ (b : Block) (data : RegWord), hostTurn w s = .next { s with
      block := b
      responses := s.responses ++ [0#32 ++ data] } := by
  by_cases read : opField w = 2
  · obtain ⟨data, e⟩ := hostTurn_read_mapped w s clear read fun unmapped => noHole ⟨.inl read, unmapped⟩
    exact ⟨_, data, e⟩
  by_cases write : opField w = 3
  · have address : addrField w = 0x02 ∨ addrField w = 0x04 ∨ addrField w = 0x05 := by
      simpa only [write, true_and, not_and_or, not_ne_iff] using writable
    obtain ⟨b, e⟩ := hostTurn_write_legal w s clear write address fun out => inRange ⟨write, out⟩
    exact ⟨b, 0, e⟩
  · obtain ⟨b, e⟩ := hostTurn_noAccess w s clear legal read write
    exact ⟨b, 0, e⟩

end Clauses

/-- Settles O12: each clause of R263 decides what the turn does, given that the clauses before it do not apply. -/
theorem firstErrorInOrderIsReported : Obligations.FirstErrorInOrderIsReported := by
  intro s w rest turns
  obtain ⟨t, stepped, _⟩ := step_cons s _ rest turns
  refine ⟨t, stepped, ?_⟩
  intro op a d reserved
  have run : hostTurn w { s with turns := rest } = .next t := (step_host s w rest turns).symm.trans stepped
  have raised {c : ErrCause} (e : hostTurn w { s with turns := rest } = .next (raiseCmdError c w { s with turns := rest })) :
      t.responses = s.responses ++ [responseWord false ((causeCode c).setWidth 32)] := by
    obtain rfl := Host.Outcome.next.inj (e.symm.trans run)
    rfl
  have opcode : op = (opField w).toNat := (opField_toNat w).symm
  have isRead : (opField w).toNat = 2 ↔ opField w = 2 := BitVec.toNat_inj (y := 2)
  have isWrite : (opField w).toNat = 3 ↔ opField w = 3 := BitVec.toNat_inj (y := 3)
  have datum : d = (dataField w).toNat := by simp [d, dataField]
  have mask : reserved = reservedMask (opField w) := by rw [reservedMask_eq, ← opcode]
  simp only [mask, opcode, isRead, isWrite, datum]
  split_ifs with illegal set hole notWritable outOfRange
  · exact raised (hostTurn_illegalOp w _ illegal)
  · exact raised (hostTurn_reservedBits w _ illegal set)
  all_goals
    have clear : w &&& reservedMask (opField w) = 0 := not_not.mp set
  · exact raised (hostTurn_unmapped w _ clear hole.1 hole.2)
  · obtain ⟨write, notStatus, notRate, notChannel⟩ := notWritable
    have mapped : ¬ unmappedAddr a := fun unmapped => hole ⟨.inr write, unmapped⟩
    exact raised (hostTurn_readOnly w _ clear write mapped notStatus notRate notChannel)
  · exact raised (hostTurn_illegalValue w _ clear outOfRange.1 outOfRange.2)
  · obtain ⟨b, data, e⟩ := hostTurn_answers w { s with turns := rest } clear illegal hole notWritable outOfRange
    obtain rfl := Host.Outcome.next.inj (e.symm.trans run)
    exact ⟨data, rfl⟩

end Sys2Proof.Machine
end

section
/-! PROOFS. Reset, the end of a run, and the orders of two steps that do not matter
(00_scope.md R14; 20_memory.md R89; 70_reset_and_hazards.md R290 to R302). -/

open Sys2Proof
namespace Sys2Proof.Machine

/-! ### Runs -/

/-- HOST runs the command whose word arrives. -/
theorem step_encode (s : State) (i : Instr) (rest : List Turn) (turns : s.turns = .host (encode i) :: rest) :
    step s = exec i { s with turns := rest } :=
  hostStepRunsTheDecodedCommand s (encode i) rest i turns (decodeInvertsEncode i)

theorem run_two (s t u : State) (first : step s = .next t) (second : step t = .next u) :
    Host.Core.run Sys2Proof.core 2 s = .next u :=
  (run_succ Sys2Proof.core 1 s t first).trans (run_succ Sys2Proof.core 0 t u second)

/-- A run from a state that a step leaves as it is. -/
theorem run_of_step_self (s : State) (idle : step s = .next s) (k : Nat) : Host.Core.run Sys2Proof.core k s = .next s := by
  induction k with
  | zero => rfl
  | succ k ih => exact (run_succ Sys2Proof.core k s s idle).trans ih

/-- As many steps as turns are listed take them all. -/
theorem run_takes_listed_turns (turns : List Turn) (s : State) (listed : s.turns = turns) :
    ∃ t : State, Host.Core.run Sys2Proof.core turns.length s = .next t ∧ t.turns = [] := by
  induction turns generalizing s with
  | nil => exact ⟨s, rfl, listed⟩
  | cons turn rest ih =>
    obtain ⟨s', stepped, left⟩ := step_cons s turn rest listed
    obtain ⟨t, run, done⟩ := ih s' left
    exact ⟨t, (run_succ Sys2Proof.core rest.length s s' stepped).trans run, done⟩

/-! ### The block after a turn of ENGINE -/

/-- The block after a turn of ENGINE: its step if the slot is full (40_frame_intake.md R133). -/
def engineBlock (p : FinePolicy) (b : Block) : Block := if b.pendValid then consumeReport p b else b

theorem engineTurn_eq (p : FinePolicy) (s : State) : engineTurn p s = { s with block := engineBlock p s.block } := by
  unfold engineTurn engineBlock
  split <;> rfl

theorem engineBlock_cases (p : FinePolicy) (b : Block) :
    engineBlock p b = consumeReport p b ∨ b.pendValid = false ∧ engineBlock p b = b := by
  cases full : b.pendValid with
  | true => exact .inl (if_pos full)
  | false => exact .inr ⟨rfl, if_neg (by simp [full])⟩

theorem consumeReport_pendValid (p : FinePolicy) (b : Block) : (consumeReport p b).pendValid = false := by
  rcases consumeReport_cases p b with ⟨_, e⟩ | ⟨_, e⟩ <;> rw [e]
  · rfl
  · rw [processFrame_pendValid, countFlags_pendValid]

theorem engineBlock_pendValid (p : FinePolicy) (b : Block) : (engineBlock p b).pendValid = false := by
  rcases engineBlock_cases p b with e | ⟨empty, e⟩ <;> rw [e]
  · exact consumeReport_pendValid p b
  · exact empty

/-- The registers that ENGINE does not write (70_reset_and_hazards.md R296). -/
def engineLeaves : List Reg := [.id, .cfg, .errInfo, .updateRate, .activeCh, .coarse, .cntDrop]

theorem consumeReport_unwritten (p : FinePolicy) (b : Block) :
    (consumeReport p b).updateRate = b.updateRate ∧ (consumeReport p b).activeCh = b.activeCh
      ∧ (consumeReport p b).cntDrop = b.cntDrop := by
  rcases consumeReport_cases p b with ⟨_, e⟩ | ⟨_, e⟩ <;> rw [e]
  · exact ⟨rfl, rfl, rfl⟩
  · simp

theorem consumeReport_readReg (p q : FinePolicy) (b : Block) (r : Reg) (left : r ∈ engineLeaves) :
    readReg q (consumeReport p b) r = readReg q b r := by
  obtain ⟨rate, channel, drop⟩ := consumeReport_unwritten p b
  obtain ⟨_, _, info⟩ := consumeReport_errorStatus p b
  simp only [engineLeaves, List.mem_cons, List.not_mem_nil, or_false] at left
  rcases left with rfl | rfl | rfl | rfl | rfl | rfl | rfl <;>
    simp only [readReg, info, rate, channel, consumeReport_coarse, drop]

theorem engineBlock_readReg (p q : FinePolicy) (b : Block) (r : Reg) (left : r ∈ engineLeaves) :
    readReg q (engineBlock p b) r = readReg q b r := by
  rcases engineBlock_cases p b with e | ⟨_, e⟩ <;> rw [e]
  exact consumeReport_readReg p q b r left

/-! ### A READ and an ENGINE turn -/

theorem regAddr_injective : Function.Injective regAddr := fun r r' same =>
  Option.some.inj ((regAt_regAddr r).symm.trans ((congrArg regAt same).trans (regAt_regAddr r')))

theorem step_engine_eq (s : State) (rest : List Turn) (turns : s.turns = .engine :: rest) :
    step s = .next { s with block := engineBlock Config.finePolicy s.block, turns := rest } := by
  rw [step_engine s rest turns, engineTurn_eq]

theorem step_read (s : State) (r : Reg) (rest : List Turn) (turns : s.turns = .host (encode (.read (regAddr r))) :: rest) :
    step s = .next { s with
      turns := rest
      responses := s.responses ++ [0#32 ++ readReg Config.finePolicy s.block r] } := by
  rw [step_encode s _ rest turns, exec_read]

/-- Settles O54: the READ leaves the block to ENGINE, and ENGINE the listed registers to the READ. -/
theorem readAndEngineCommuteOnTheBlock : Obligations.ReadAndEngineCommuteOnTheBlock := by
  intro s a rest mapped
  obtain ⟨r, reg⟩ := regAt_of_mapped a mapped
  obtain rfl := regAddr_regAt a r reg
  have readFirst := run_two _ _ _
    (step_read { s with turns := .host (encode (.read (regAddr r))) :: .engine :: rest } r _ rfl)
    (step_engine_eq _ rest rfl)
  have engineFirst := run_two _ _ _
    (step_engine_eq { s with turns := .engine :: .host (encode (.read (regAddr r))) :: rest } _ rfl)
    (step_read _ r rest rfl)
  refine ⟨_, _, readFirst, engineFirst, rfl, rfl, rfl, fun listed => ?_⟩
  have left : r ∈ engineLeaves := (List.mem_map_of_injective regAddr_injective).mp listed
  simp only [engineBlock_readReg _ _ _ r left]

/-! ### The two configuration WRITEs -/

/-- A WRITE that its register takes. -/
theorem step_write (s : State) (r : Reg) (d : RegWord) (b : Block) (rest : List Turn)
    (turns : s.turns = .host (encode (.write (regAddr r) d)) :: rest) (taken : writeReg r d s.block = .ok b) :
    step s = .next { s with block := b, turns := rest, responses := s.responses ++ [0] } := by
  rw [step_encode s _ rest turns, exec_write_ok r d { s with turns := rest } b taken]

/-- Settles O55: the two WRITEs write different fields, and each responds 0. -/
theorem configurationWritesCommute : Obligations.ConfigurationWritesCommute := by
  intro s n c rest lo hi legal
  have rate (s : State) (rest : List Turn) (turns : s.turns = .host (0x30000004#32 ++ n) :: rest) :=
    step_write s .updateRate n _ rest turns (writeReg_updateRate_legal n s.block lo hi)
  have channel (s : State) (rest : List Turn) (turns : s.turns = .host (0x30000005#32 ++ c) :: rest) :=
    step_write s .activeCh c _ rest turns (writeReg_activeCh_legal c s.block legal)
  exact ⟨_, run_two _ _ _ (rate { s with turns := _ } _ rfl) (channel _ rest rfl),
    run_two _ _ _ (channel { s with turns := _ } _ rfl) (rate _ rest rfl), rfl⟩

/-! ### The end of a run -/

/-- Settles O57: the listed turns are taken, ENGINE's turn after them empties the slot, and then every step is idle. -/
theorem everyRunEndsWithTheSlotEmpty : Obligations.EveryRunEndsWithTheSlotEmpty := by
  intro s
  obtain ⟨u, run, usedUp⟩ := run_takes_listed_turns s.turns s rfl
  have last : step u = .next { u with block := engineBlock Config.finePolicy u.block } := by
    rw [step_usedUp u usedUp, engineTurn_eq]
  have empty := engineBlock_pendValid Config.finePolicy u.block
  refine ⟨{ u with block := engineBlock Config.finePolicy u.block }, ?_, ⟨usedUp, empty⟩,
    run_of_step_self _ (step_usedUp_empty _ usedUp empty)⟩
  exact (run_add Sys2Proof.core _ 1 s u run).trans (run_succ Sys2Proof.core 0 u _ last)

/-! ### Reset -/

/-- Settles O29: the histories are replicated seeds, and every other element is the one written. -/
theorem resetLoadsTheTable : Obligations.ResetLoadsTheTable := by
  refine ⟨fun i => ⟨Vector.getElem_replicate i.isLt, Vector.getElem_replicate i.isLt⟩, ?_⟩
  exact ⟨rfl, rfl, rfl, rfl, rfl, rfl, rfl, rfl, rfl, rfl, rfl, rfl, rfl, rfl, rfl, rfl, rfl, rfl, rfl, rfl⟩

/-- Settles O30: both turns load the reset block, and HOST alone responds. -/
theorem resetInputIsSilentSreset : Obligations.ResetInputIsSilentSreset := by
  intro s rest turns
  refine ⟨step_rst s rest turns, ?_⟩
  rw [step_encode { s with turns := .host 0x4000000000000000 :: rest } .sreset rest rfl, exec_sreset]
  rfl

end Sys2Proof.Machine
end
